-- ==== Sys2Proof/Word.lean ====
section
/-! DEFINITION. The machine's word sizes (00_scope.md R5, section 6): every value of the block is unsigned. -/

namespace Sys2Proof

/-- One byte: a texel channel, a unit byte (R5). -/
abbrev Byte := BitVec 8

/-- One 32-bit register word of the window: a texel, a command word, four unit bytes (20_memory.md R29). -/
abbrev Word := BitVec 32

/-- A 7-bit register offset within the 128-byte window (20_memory.md R28). -/
abbrev Offset := BitVec 7

end Sys2Proof
end

