-- ==== Sys2Proof/Syntax.lean ====
section
/-! DEFINITION. The commands of the block, one constructor per row of spec/opcode_table.json (30_encoding.md R52).
`alpha` is bit 3 of the command word. The DXT commands ignore it (R53), but `CMD` keeps it (10_state.md R11), so a DXT
constructor carries it: every word of R52 is then one term, and no bit of the word is dropped (log 9). -/

namespace Sys2Proof

/-- The seven commands (R52). -/
inductive Instr where
  /-- `RAW3`, one BGR texel (R102). -/
  | raw3
  /-- `RAW4`, one BGRA texel (R103). -/
  | raw4
  /-- `DXT1`, colour with 1-bit alpha (R85). -/
  | dxt1 (alpha : Bool)
  /-- `DXT2`, explicit alpha (R92). -/
  | dxt2 (alpha : Bool)
  /-- `DXT3`, explicit alpha (R91). -/
  | dxt3 (alpha : Bool)
  /-- `DXT4`, interpolated alpha (R100). -/
  | dxt4 (alpha : Bool)
  /-- `DXT5`, interpolated alpha (R99). -/
  | dxt5 (alpha : Bool)
  deriving DecidableEq, Repr

end Sys2Proof
end

