-- ==== Sys2Proof/Decode.lean ====
section
/-! DEFINITION. The command word (30_encoding.md R51 to R56, R68): decoder, total on every 32-bit word, and encoder. -/

namespace Sys2Proof

/-- What `Decode` answers (R56): a command, the architected error with its variant number (R68), or a reserved word (R55). -/
inductive Decoded where
  | command (i : Instr)
  | unsupported (variant : BitVec 3)
  | reserved
  deriving DecidableEq, Repr

/-- Field `VARIANT`, bits [2:0] (R51). -/
def wordVariant (w : Word) : BitVec 3 := w.extractLsb' 0 3

/-- Field `ALPHA`, bit [3] (R51). -/
def wordAlpha (w : Word) : Bool := w.getLsbD 3

/-- The reserved field, bits [31:4] (R51, R55). -/
def wordReserved (w : Word) : BitVec 28 := w.extractLsb' 4 28

/-- `Decode(w)` (R56). The reserved bits are tested before the variant (R55). -/
def decode (w : Word) : Decoded :=
  if wordReserved w ≠ 0 then .reserved
  else match (wordVariant w).toNat with
    | 0 => if wordAlpha w then .command .raw4 else .command .raw3
    | 1 => .command (.dxt1 (wordAlpha w))
    | 2 => .command (.dxt2 (wordAlpha w))
    | 3 => .command (.dxt3 (wordAlpha w))
    | 4 => .command (.dxt4 (wordAlpha w))
    | 5 => .command (.dxt5 (wordAlpha w))
    | _ => .unsupported (wordVariant w)

/-- The `VARIANT` number of a command (R52). -/
def Instr.variant : Instr → BitVec 3
  | .raw3 => 0
  | .raw4 => 0
  | .dxt1 _ => 1
  | .dxt2 _ => 2
  | .dxt3 _ => 3
  | .dxt4 _ => 4
  | .dxt5 _ => 5

/-- The `ALPHA` bit of a command's word (R52, R53). -/
def Instr.alphaBit : Instr → Bool
  | .raw3 => false
  | .raw4 => true
  | .dxt1 a => a
  | .dxt2 a => a
  | .dxt3 a => a
  | .dxt4 a => a
  | .dxt5 a => a

/-- The command word of a command (R51, R52). -/
def encode (i : Instr) : Word := 0#28 ++ BitVec.ofBool i.alphaBit ++ i.variant

/-- The decoder on an opcode-table word: bits numbered as the table numbers them. A command is one 32-bit word, so a
shorter row is extended with zero bits and a longer one is no command (log 15). -/
def decodeTableWord (nbits w : Nat) : Option Instr :=
  if nbits ≤ 32 then
    match decode (BitVec.ofNat 32 (w % 2 ^ nbits)) with
    | .command i => some i
    | .unsupported _ => none
    | .reserved => none
  else none

end Sys2Proof
end

