-- ==== Sys2Proof/Machine/State.lean ====
section
/-! DEFINITION. The machine's state (10_state.md R8), its reset value (R25), its faults (60_exceptions.md R111). -/

namespace Sys2Proof.Machine

/-- A 32-bit register word with its model-level mark (10_state.md R21): `written` is false from reset until the first
write. The value under an unwritten mark is never used (R111). -/
structure RegWord where
  val : Word
  written : Bool
  deriving DecidableEq, Repr

/-- `IN` as the host's four words `IN0`..`IN3` (R10). -/
abbrev InReg := Vector RegWord 4

/-- `OUT` as the sixteen texel words `OUT0`..`OUT15` (R13). -/
abbrev OutReg := Vector RegWord 16

/-- `PEND` when a command is in flight (R18): the command and the snapshot of `IN` taken at issue. `wait` is the model's
own: the host turns left of this command's `LAT` (00_scope.md R6; log 1). -/
structure Pend where
  op : Instr
  snap : InReg
  wait : Nat
  deriving DecidableEq, Repr

/-- What the host can do to the block in one event (00_scope.md R7, 30_encoding.md R70). Offsets are relative to `BASE`.
`rd` and `wr` are `MemRead(BASE + off, width)` and `MemWrite(BASE + off, width, value)`; `wait` is the `STATUS` poll loop
of R70; `reset` asserts the reset input (R119). Every width but 4 faults (R37), so a write holds 32 value bits (log 11). -/
inductive HostStmt where
  | rd (off : Offset) (width : Nat)
  | wr (off : Offset) (width : Nat) (value : Word)
  | wait
  | reset
  deriving DecidableEq, Repr

/-- One value a host read returned, with the offset read. -/
structure HostRead where
  off : Offset
  value : Word
  deriving DecidableEq, Repr

/-- The whole state. `inReg` to `pend` are the block's (R8); `STATUS.BUSY` is read from `pend` (R15; log 7).
`todo` and `reads` are the host agent's (R14; log 3) and `issues` counts issued commands for `LAT` (log 2). -/
structure State where
  /-- `IN` (R10). -/
  inReg : InReg
  /-- `CMD` (R11). -/
  cmd : RegWord
  /-- `STATUS.DONE` (R16). -/
  done : Bool
  /-- `STATUS.ERR` (R17). -/
  err : Bool
  /-- `OUT` (R13). -/
  out : OutReg
  /-- `PEND` (R18). -/
  pend : Option Pend
  /-- The host's remaining statements, next one first. -/
  todo : List HostStmt
  /-- The values the host's reads have returned, newest first. -/
  reads : List HostRead
  /-- How many commands have been issued. -/
  issues : Nat
  deriving DecidableEq, Repr

/-- `STATUS.BUSY` (R15): 1 exactly when `PEND` is not `none`. -/
def State.busy (s : State) : Bool := s.pend.isSome

/-- The protocol violations (60_exceptions.md R110, R111). The spec leaves the hardware effect of each unspecified and
asks a model to stop there, so each is safe: it proves nothing about what the hardware does next. -/
inductive Fault where
  /-- Raised by a host access of a width other than 4, or at an offset that is no multiple of 4 (R37). Safe. -/
  | badAccess
  /-- Raised by a host access at an offset `0x18` to `0x3C` (R30). Safe. -/
  | reservedOffset
  /-- Raised by a host write to `STATUS` or to an `OUT` word (R36, R39). Safe. -/
  | writeReadOnly
  /-- Raised by a host write to an `IN` word or to `CMD` while busy (R32, R34). Safe. -/
  | writeWhileBusy
  /-- Raised by a host read of an `OUT` word while busy (R38). Safe. -/
  | readWhileBusy
  /-- Raised by a host read of an `IN`, `CMD` or `OUT` word that is marked unwritten (R21, R33,
  R35, R38; 93_implementation_defined.md U1). Safe. -/
  | readUnwritten
  /-- Raised by a host write to `CMD` of a word with a bit of [31:4] set (R55). Safe. -/
  | reservedCommand
  /-- Raised by a completion whose command reads a word of the snapshot that was unwritten at issue (R21,
  R24; U1). Safe. -/
  | unwrittenOperand
  deriving DecidableEq, Repr

/-- Reasons to have no meaning for a command. -/
inductive Refusal where
  /-- Raised by exec's arm of a command that has no meaning yet; no arm raises it now. Safe. -/
  | notModelled (mnemonic : String)
  deriving DecidableEq, Repr

/-- A word nothing has written: the spec gives it no value (R25), the model names 0 (log 5). -/
def RegWord.unwritten : RegWord := ⟨0, false⟩

/-- The machine right after reset (R25), with no host statement placed. -/
def State.reset : State where
  inReg := Vector.replicate 4 RegWord.unwritten
  cmd := RegWord.unwritten
  done := false
  err := false
  out := Vector.replicate 16 RegWord.unwritten
  pend := none
  todo := []
  reads := []
  issues := 0

end Sys2Proof.Machine
end

