-- ==== Sys2Proof/Machine/Operands.lean ====
section
/-! DEFINITION. Operand forms: byte order, the layouts of the input units and of a texel word, and which words of `IN` a
command reads (20_memory.md R31, R42; 30_encoding.md R57 to R67). -/

namespace Sys2Proof.Machine

/-- `le16` (00_scope.md section 6): `b0` is the least significant byte. -/
def le16 (b0 b1 : Byte) : BitVec 16 := b1 ++ b0

/-- `le32` (00_scope.md section 6). -/
def le32 (b0 b1 b2 b3 : Byte) : Word := b3 ++ b2 ++ b1 ++ b0

/-- `le64` (00_scope.md section 6). -/
def le64 (b0 b1 b2 b3 b4 b5 b6 b7 : Byte) : BitVec 64 := b7 ++ b6 ++ b5 ++ b4 ++ b3 ++ b2 ++ b1 ++ b0

/-- A texel word `rgba(r, g, b, a)` (R67): R in bits [7:0], A in bits [31:24]. -/
def rgba (r g b a : Byte) : Word := le32 r g b a

/-- Byte `i` of a register word, bits [8i+7:8i] (R31). -/
def laneByte (w : Word) (i : Nat) : Byte := w.extractLsb' (8 * i) 8

/-- `IN.b[i]` of a snapshot or of the live register (R10, R42): byte `i mod 4` of word `i div 4`. -/
def inByte (r : InReg) (i : Fin 16) : Byte := laneByte (r[i.val / 4]'(by omega)).val (i.val % 4)

/-- Where the colour sub-block of a unit starts (R59, R60): byte 0 for `DXT1`, byte 8 for `DXT2` to `DXT5`. -/
inductive ColorBase where
  | low
  | high
  deriving DecidableEq, Repr

/-- Byte `k` of the colour sub-block at its base (R61). -/
def colorByte (r : InReg) (base : ColorBase) (k : Fin 8) : Byte :=
  match base with
  | .low => inByte r ⟨k.val, by omega⟩
  | .high => inByte r ⟨8 + k.val, by omega⟩

/-- Endpoint `c0` of the colour sub-block (R61). -/
def colorC0 (r : InReg) (base : ColorBase) : BitVec 16 := le16 (colorByte r base 0) (colorByte r base 1)

/-- Endpoint `c1` of the colour sub-block (R61). -/
def colorC1 (r : InReg) (base : ColorBase) : BitVec 16 := le16 (colorByte r base 2) (colorByte r base 3)

/-- The index word `I` of the colour sub-block (R61). -/
def colorIndices (r : InReg) (base : ColorBase) : Word :=
  le32 (colorByte r base 4) (colorByte r base 5) (colorByte r base 6) (colorByte r base 7)

/-- `cidx(j) = I[2j+1:2j]` (R61). -/
def colorIndex (r : InReg) (base : ColorBase) (j : Fin 16) : BitVec 2 := (colorIndices r base).extractLsb' (2 * j.val) 2

/-- The eight bytes of the alpha sub-block as one number (R63, R64). -/
def alphaBits (r : InReg) : BitVec 64 :=
  le64 (inByte r 0) (inByte r 1) (inByte r 2) (inByte r 3) (inByte r 4) (inByte r 5) (inByte r 6) (inByte r 7)

/-- `anib(j) = A[4j+3:4j]` (R63). -/
def alphaNibble (r : InReg) (j : Fin 16) : BitVec 4 := (alphaBits r).extractLsb' (4 * j.val) 4

/-- `a0` (R64). -/
def alphaA0 (r : InReg) : Byte := inByte r 0

/-- `a1` (R64). -/
def alphaA1 (r : InReg) : Byte := inByte r 1

/-- `aidx(j) = L[16+3j+2:16+3j]` (R64). -/
def alphaIndex (r : InReg) (j : Fin 16) : BitVec 3 := (alphaBits r).extractLsb' (16 + 3 * j.val) 3

/-- The length of a command's input unit in bytes (R57). -/
def unitBytes : Instr → Nat
  | .raw3 => 3
  | .raw4 => 4
  | .dxt1 _ => 8
  | .dxt2 _ => 16
  | .dxt3 _ => 16
  | .dxt4 _ => 16
  | .dxt5 _ => 16

/-- Word `k` of `IN` holds a byte of the command's unit, which occupies `IN` from byte 0 (R58; R111's list). -/
def readsWord (i : Instr) (k : Fin 4) : Bool := decide (4 * k.val < unitBytes i)

/-- Every word the command reads was written when the snapshot was taken (10_state.md R21, R24). -/
def operandsWritten (i : Instr) (snap : InReg) : Bool :=
  (!readsWord i 0 || snap[0].written) && (!readsWord i 1 || snap[1].written) &&
    (!readsWord i 2 || snap[2].written) && (!readsWord i 3 || snap[3].written)

/-- A block command's result (R87): all sixteen words of `OUT`, each marked written (R21). -/
def tileWritten (f : Fin 16 → Word) : OutReg := Vector.ofFn fun j => ⟨f j, true⟩

/-- A texel command's result (R105): `OUT.t[0]` only, marked written. -/
def texelWritten (w : Word) (out : OutReg) : OutReg := out.set 0 ⟨w, true⟩

end Sys2Proof.Machine
end

