-- ==== Sys2Proof/Machine/Color.lean ====
section
/-! DEFINITION. The shared colour sub-block (40_color_block.md): expander, RGB565 unpacking, palettes, index selection. -/

namespace Sys2Proof.Machine

/-- `expand(c, from, to)` (R71), the formula as it stands. -/
def expand (c src dst : Nat) : Nat :=
  let half := 1 <<< (src - 1)
  let x := half + c * ((1 <<< dst) - 1)
  (x + (x >>> src)) >>> src

/-- `expand(c, n, 8)` of an n-bit field; the result fits 8 bits for n = 4, 5, 6 (R72). -/
def expand8 {n : Nat} (c : BitVec n) : Byte := BitVec.ofNat 8 (expand c.toNat n 8)

/-- Three 8-bit channels. -/
structure Rgb where
  r : Byte
  g : Byte
  b : Byte
  deriving DecidableEq, Repr

/-- `Unpack565(c)` (R74) with the field positions of 30_encoding.md R62. -/
def unpack565 (c : BitVec 16) : Rgb where
  r := expand8 (c.extractLsb' 11 5)
  g := expand8 (c.extractLsb' 5 6)
  b := expand8 (c.extractLsb' 0 5)

/-- The opaque texel of a colour: alpha 255 (R75, R76). -/
def Rgb.opaqueTexel (c : Rgb) : Word := rgba c.r c.g c.b 255

/-- Weighted mean `(k0 * x + k1 * y) div d` of two channel values, with a truncating division (R75, R76, R83). -/
def blend (k0 k1 d : Nat) (x y : Byte) : Byte := BitVec.ofNat 8 ((k0 * x.toNat + k1 * y.toNat) / d)

/-- `blend` on each channel separately (R75, R79). -/
def Rgb.blend (k0 k1 d : Nat) (x y : Rgb) : Rgb where
  r := Machine.blend k0 k1 d x.r y.r
  g := Machine.blend k0 k1 d x.g y.g
  b := Machine.blend k0 k1 d x.b y.b

/-- A palette of four texel words, indexed from 0. -/
abbrev ColorPalette := Vector Word 4

/-- `Palette4(c0, c1)` (R75): index 2 is nearer `c0`, index 3 nearer `c1` (R81). -/
def palette4 (c0 c1 : BitVec 16) : ColorPalette :=
  let p := unpack565 c0
  let q := unpack565 c1
  #v[p.opaqueTexel, q.opaqueTexel, (p.blend 2 1 3 q).opaqueTexel, (p.blend 1 2 3 q).opaqueTexel]

/-- `Palette3T(c0, c1)` (R76): index 2 is the average, index 3 transparent black. -/
def palette3T (c0 c1 : BitVec 16) : ColorPalette :=
  let p := unpack565 c0
  let q := unpack565 c1
  #v[p.opaqueTexel, q.opaqueTexel, (p.blend 1 1 2 q).opaqueTexel, rgba 0 0 0 0]

/-- Palette choice (R77): the three-colour palette only for `DXT1` with `c0 ≤ c1` as raw 16-bit values. -/
def colorPalette (punch : Bool) (c0 c1 : BitVec 16) : ColorPalette :=
  if punch = true ∧ c0.toNat ≤ c1.toNat then palette3T c0 c1 else palette4 c0 c1

/-- Selection by a 2-bit index: every index selects an entry (R78). -/
def pickColor (pal : ColorPalette) (i : BitVec 2) : Word := pal[i.toNat]'i.isLt

/-- `ColorTile(s, punch)[j]` (R78). -/
def colorTexel (base : ColorBase) (punch : Bool) (snap : InReg) (j : Fin 16) : Word :=
  pickColor (colorPalette punch (colorC0 snap base) (colorC1 snap base)) (colorIndex snap base j)

/-- `{ alpha, col[23:0] }` (R91, R99): the alpha byte of a colour texel replaced. -/
def withAlpha (alpha : Byte) (col : Word) : Word := alpha ++ col.extractLsb' 0 24

end Sys2Proof.Machine
end

