-- ==== Sys2Proof/Config.lean ====
section
/-! DEFINITION. What an implementation fixes and the spec leaves open (00_scope.md R6): `LAT` and `BASE`.
Both are opaque: no proof can see a value of either, so a claim holds for every value. -/

namespace Sys2Proof

/-- `LAT` (R6, R130, D19): how many host turns lie between the issue of the n-th command and its completion.
Any natural number, 0 included, possibly different for every command. A free value (log 1). -/
opaque Config.latency : Nat → Nat

/-- `BASE / 128` (R6, D2). A free value (log 4). -/
opaque Config.baseIndex : Nat

/-- `BASE`, the byte address of the register window, a multiple of 128 (R6, R50). -/
def Config.base : Nat := 128 * Config.baseIndex

end Sys2Proof
end

