-- ==== Sys2Proof/Machine/Flags.lean ====
section
/-! DEFINITION. The status register (10_state.md R12, R15 to R17) and every rule that changes its flags. -/

namespace Sys2Proof.Machine

/-- `STATUS` as the host reads it (20_memory.md R36): `{29'b0, ERR, DONE, BUSY}`. -/
def State.statusWord (s : State) : Word :=
  0#29 ++ BitVec.ofBool s.err ++ BitVec.ofBool s.done ++ BitVec.ofBool s.busy

/-- Issue of a supported command (R22): `DONE <- 0`, `ERR <- 0`. `BUSY` follows `PEND`. -/
def State.flagsIssued (s : State) : State := { s with done := false, err := false }

/-- Issue of an unsupported variant (R23, R107): `DONE <- 0`, `ERR <- 1`. `BUSY` stays 0 with `PEND` none. -/
def State.flagsRejected (s : State) : State := { s with done := false, err := true }

/-- Completion (R24): `DONE <- 1`, no other flag is named. `BUSY` follows `PEND`. -/
def State.flagsCompleted (s : State) : State := { s with done := true }

end Sys2Proof.Machine
end

