-- ==== Sys2Proof/Machine/Ops.lean ====
section
/-! DEFINITION. The named operations over the registers: the window map, the written marks, issue, completion, the one
architected error, reset. -/

namespace Sys2Proof.Machine

/-- What stands at an aligned offset of the window (20_memory.md R29). -/
inductive WindowReg where
  | input (k : Fin 4)
  | cmd
  | status
  | reserved
  | output (j : Fin 16)
  deriving DecidableEq, Repr

/-- The window map (R29, R30): word 0..3 `IN`, 4 `CMD`, 5 `STATUS`, 6..15 reserved, 16..31 `OUT`. -/
def windowReg (off : Offset) : WindowReg :=
  if h : off.toNat / 4 < 4 then .input ⟨off.toNat / 4, h⟩
  else if off.toNat / 4 = 4 then .cmd
  else if off.toNat / 4 = 5 then .status
  else if off.toNat / 4 < 16 then .reserved
  else .output ⟨off.toNat / 4 - 16, by have := off.isLt; omega⟩

/-- The only defined access is 4 bytes wide at a multiple of 4 (R37). -/
def aligned (off : Offset) (width : Nat) : Bool := width == 4 && off.toNat % 4 == 0

/-- Offset of `INk` (R29). -/
def offIn (k : Fin 4) : Offset := BitVec.ofNat 7 (4 * k.val)

/-- Offset of `CMD` (R29). -/
def offCmd : Offset := 0x10

/-- Offset of `STATUS` (R29). -/
def offStatus : Offset := 0x14

/-- Offset of `OUTj` (R29). -/
def offOut (j : Fin 16) : Offset := BitVec.ofNat 7 (0x40 + 4 * j.val)

/-- The offset a host byte address selects, if it lies in the window `BASE`..`BASE + 127` (R28). -/
def windowOffset (addr : Nat) : Option Offset :=
  if Config.base ≤ addr ∧ addr < Config.base + 128 then some (BitVec.ofNat 7 (addr - Config.base)) else none

/-- `MemRead(addr, n)` of 00_scope.md section 6 as a host statement: none outside the window, where it is no access of
this block (R28). -/
def memRead (addr n : Nat) : Option HostStmt := (windowOffset addr).map fun off => .rd off n

/-- `MemWrite(addr, n, v)` of 00_scope.md section 6 as a host statement (R28). -/
def memWrite (addr n : Nat) (v : Word) : Option HostStmt := (windowOffset addr).map fun off => .wr off n v

/-- A marked word read by the host: a fault while it is unwritten, as the spec says of `INk`, `CMD` and `OUTj` (10_state.md
R21; 20_memory.md R33, R35, R38; 60_exceptions.md R110, R111; 93_implementation_defined.md U1). -/
def RegWord.read (r : RegWord) : Except Fault Word := if r.written then .ok r.val else .error .readUnwritten

/-- A host write of `INk` (20_memory.md R32). -/
def State.writeIn (s : State) (k : Fin 4) (v : Word) : State := { s with inReg := s.inReg.set k ⟨v, true⟩ }

/-- The host receives a value from a read; the block is unchanged (R41). -/
def State.logRead (s : State) (off : Offset) (v : Word) : State := { s with reads := ⟨off, v⟩ :: s.reads }

/-- Issue of a supported command (10_state.md R22), one atomic step. -/
def State.issue (s : State) (i : Instr) : State :=
  { s.flagsIssued with
    cmd := ⟨encode i, true⟩
    pend := some ⟨i, s.inReg, Config.latency s.issues⟩
    issues := s.issues + 1 }

/-- `raise UnsupportedDXTVariant` (10_state.md R23, 60_exceptions.md R107): the block's one exception. It saves nothing
but the word in `CMD`, changes no mode and transfers control nowhere (R113). There is no return from it: the next `CMD`
write or reset clears it (R114). -/
def State.raiseUnsupported (s : State) (w : Word) : State := { s.flagsRejected with cmd := ⟨w, true⟩ }

/-- Completion (10_state.md R24) with the new contents of `OUT`, one atomic step. -/
def State.complete (s : State) (out : OutReg) : State := { s.flagsCompleted with out := out, pend := none }

/-- Reset (70_reset_and_hazards.md R119, R120): the block's state takes the values of R25 and a pending command is
abandoned. The host's own state and the model's issue count go on (log 2, 6). -/
def State.assertReset (s : State) : State :=
  { State.reset with todo := s.todo, reads := s.reads, issues := s.issues }

/-- Running a command, shared by the seven meanings: its issue (R22) where no command is in flight, its completion (R24)
where it is itself the one in flight. `result` is the spec's `Exec(op, snap, OUT)`. A completion that reads a word of the
snapshot unwritten at issue is a fault instead, as R24 and each command's rule say (R110, R111, U1). Another command in
flight means the host wrote `CMD` while busy (R34; log 8). -/
def runCommand (i : Instr) (result : InReg → OutReg → OutReg) (s : State) : Host.Outcome State Fault Refusal :=
  match s.pend with
  | none => .next (s.issue i)
  | some p =>
    if p.op = i then
      if operandsWritten i p.snap then .next (s.complete (result p.snap s.out)) else .fault .unwrittenOperand
    else .fault .writeWhileBusy

end Sys2Proof.Machine
end

