-- ==== Sys2Proof/Machine/Dxt1.lean ====
section
/-! DEFINITION. `DXT1` (41_dxt1.md). -/

namespace Sys2Proof.Machine

/-- `Exec(DXT1, snap, OUT)` (R85): sixteen colour texels, alpha part of the palette (R86). -/
def dxt1Result (snap : InReg) (_out : OutReg) : OutReg := tileWritten (colorTexel .low true snap)

/-- `DXT1`: issue (R22) and completion (R24, R85). -/
def execDxt1 (alpha : Bool) (s : State) : Host.Outcome State Fault Refusal := runCommand (.dxt1 alpha) dxt1Result s

end Sys2Proof.Machine
end

