-- ==== Sys2Proof/Machine/Alpha.lean ====
section
/-! DEFINITION. The explicit alpha unpacker (42_dxt23.md R89) and the interpolated one (43_dxt45.md R95 to R98). -/

namespace Sys2Proof.Machine

/-- `Alpha4()[j]` (R89). -/
def alpha4 (snap : InReg) (j : Fin 16) : Byte := expand8 (alphaNibble snap j)

/-- A palette of eight alpha bytes, indexed from 0. -/
abbrev AlphaPalette := Vector Byte 8

/-- `AlphaPalette8(a0, a1)` (R96). -/
def alphaPalette8 (a0 a1 : Byte) : AlphaPalette :=
  #v[a0, a1, blend 6 1 7 a0 a1, blend 5 2 7 a0 a1, blend 4 3 7 a0 a1, blend 3 4 7 a0 a1, blend 2 5 7 a0 a1,
    blend 1 6 7 a0 a1]

/-- `AlphaPalette6(a0, a1)` (R97): fixed 0 and 255 at indices 6 and 7. -/
def alphaPalette6 (a0 a1 : Byte) : AlphaPalette :=
  #v[a0, a1, blend 4 1 5 a0 a1, blend 3 2 5 a0 a1, blend 2 3 5 a0 a1, blend 1 4 5 a0 a1, 0, 255]

/-- The palette mode (R95): eight values when `a0 > a1`, else six. -/
def alphaPalette (a0 a1 : Byte) : AlphaPalette :=
  if a1.toNat < a0.toNat then alphaPalette8 a0 a1 else alphaPalette6 a0 a1

/-- Selection by a 3-bit index: every index selects an entry (R98). -/
def pickAlpha (pal : AlphaPalette) (i : BitVec 3) : Byte := pal[i.toNat]'i.isLt

/-- `AlphaInterp()[j]` (R98). -/
def alphaInterp (snap : InReg) (j : Fin 16) : Byte :=
  pickAlpha (alphaPalette (alphaA0 snap) (alphaA1 snap)) (alphaIndex snap j)

end Sys2Proof.Machine
end

