-- ==== Sys2Proof/Machine/Dxt23.lean ====
section
/-! DEFINITION. `DXT2` and `DXT3`, explicit 4-bit alpha (42_dxt23.md). -/

namespace Sys2Proof.Machine

/-- `{ alpha[j], col[j][23:0] }` of R91: explicit alpha over the four-colour palette (R90). -/
def explicitTexel (snap : InReg) (j : Fin 16) : Word := withAlpha (alpha4 snap j) (colorTexel .high false snap j)

/-- `Exec(DXT3, snap, OUT)` (R91). -/
def dxt3Result (snap : InReg) (_out : OutReg) : OutReg := tileWritten (explicitTexel snap)

/-- `Exec(DXT2, snap, OUT) = Exec(DXT3, snap, OUT)` (R92). -/
def dxt2Result (snap : InReg) (out : OutReg) : OutReg := dxt3Result snap out

/-- `DXT2`: issue (R22) and completion (R24, R92). -/
def execDxt2 (alpha : Bool) (s : State) : Host.Outcome State Fault Refusal := runCommand (.dxt2 alpha) dxt2Result s

/-- `DXT3`: issue (R22) and completion (R24, R91). -/
def execDxt3 (alpha : Bool) (s : State) : Host.Outcome State Fault Refusal := runCommand (.dxt3 alpha) dxt3Result s

end Sys2Proof.Machine
end

