-- ==== Sys2Proof/Machine/Dxt45.lean ====
section
/-! DEFINITION. `DXT4` and `DXT5`, interpolated alpha (43_dxt45.md). -/

namespace Sys2Proof.Machine

/-- `{ alpha[j], col[j][23:0] }` of R99: interpolated alpha over the four-colour palette. -/
def interpTexel (snap : InReg) (j : Fin 16) : Word := withAlpha (alphaInterp snap j) (colorTexel .high false snap j)

/-- `Exec(DXT5, snap, OUT)` (R99). -/
def dxt5Result (snap : InReg) (_out : OutReg) : OutReg := tileWritten (interpTexel snap)

/-- `Exec(DXT4, snap, OUT) = Exec(DXT5, snap, OUT)` (R100). -/
def dxt4Result (snap : InReg) (out : OutReg) : OutReg := dxt5Result snap out

/-- `DXT4`: issue (R22) and completion (R24, R100). -/
def execDxt4 (alpha : Bool) (s : State) : Host.Outcome State Fault Refusal := runCommand (.dxt4 alpha) dxt4Result s

/-- `DXT5`: issue (R22) and completion (R24, R99). -/
def execDxt5 (alpha : Bool) (s : State) : Host.Outcome State Fault Refusal := runCommand (.dxt5 alpha) dxt5Result s

end Sys2Proof.Machine
end

