-- ==== Sys2Proof/Machine/Raw.lean ====
section
/-! DEFINITION. `RAW3` and `RAW4`, the texel reorder (44_uncompressed.md). -/

namespace Sys2Proof.Machine

/-- `rgba(b2, b1, b0, 255)` (R102): blue and red exchanged, alpha forced to 255. -/
def raw3Texel (snap : InReg) : Word := rgba (inByte snap 2) (inByte snap 1) (inByte snap 0) 255

/-- `rgba(b2, b1, b0, b3)` (R103): blue and red exchanged, alpha passed through. -/
def raw4Texel (snap : InReg) : Word := rgba (inByte snap 2) (inByte snap 1) (inByte snap 0) (inByte snap 3)

/-- `Exec(RAW3, snap, OUT)` (R102, R105). -/
def raw3Result (snap : InReg) (out : OutReg) : OutReg := texelWritten (raw3Texel snap) out

/-- `Exec(RAW4, snap, OUT)` (R103, R105). -/
def raw4Result (snap : InReg) (out : OutReg) : OutReg := texelWritten (raw4Texel snap) out

/-- `RAW3`: issue (R22) and completion (R24, R102). -/
def execRaw3 (s : State) : Host.Outcome State Fault Refusal := runCommand .raw3 raw3Result s

/-- `RAW4`: issue (R22) and completion (R24, R103). -/
def execRaw4 (s : State) : Host.Outcome State Fault Refusal := runCommand .raw4 raw4Result s

end Sys2Proof.Machine
end

