-- ==== Sys2Proof/Machine/Dispatch.lean ====
section
/-! DEFINITION. One arm per command (30_encoding.md R52). -/

namespace Sys2Proof.Machine

def exec (i : Instr) (s : State) : Host.Outcome State Fault Refusal :=
  match i with
  | .raw3 => Sys2Proof.Machine.execRaw3 s
  | .raw4 => Sys2Proof.Machine.execRaw4 s
  | .dxt1 alpha => Sys2Proof.Machine.execDxt1 alpha s
  | .dxt2 alpha => Sys2Proof.Machine.execDxt2 alpha s
  | .dxt3 alpha => Sys2Proof.Machine.execDxt3 alpha s
  | .dxt4 alpha => Sys2Proof.Machine.execDxt4 alpha s
  | .dxt5 alpha => Sys2Proof.Machine.execDxt5 alpha s

end Sys2Proof.Machine
end

