-- ==== Sys2Proof/Machine/HostAccess.lean ====
section
/-! DEFINITION. The host's events (20_memory.md R32 to R39, 30_encoding.md R70, 70_reset_and_hazards.md R119) and the
order in which the two agents move (R43). -/

namespace Sys2Proof.Machine

/-- The value of a host read, or the violation it is, in the priority of 60_exceptions.md R112. -/
def readAccess (off : Offset) (width : Nat) (s : State) : Except Fault Word :=
  if aligned off width then
    match windowReg off with
    | .reserved => .error .reservedOffset
    | .input k => s.inReg[k].read
    | .cmd => s.cmd.read
    | .status => .ok s.statusWord
    | .output j => if s.busy then .error .readWhileBusy else s.out[j].read
  else .error .badAccess

/-- `RD off` (R70): the host receives the value; nothing of the block changes (R41). -/
def hostRead (off : Offset) (width : Nat) (s : State) : Host.Outcome State Fault Refusal :=
  match readAccess off width s with
  | .ok v => .next (s.logRead off v)
  | .error f => .fault f

/-- A write of `CMD` while not busy (R34): reserved words fault (R55), unsupported variants raise the error (R23), and a
command is issued, which is that command run where nothing is in flight. -/
def writeCommand (w : Word) (s : State) : Host.Outcome State Fault Refusal :=
  match decode w with
  | .reserved => .fault .reservedCommand
  | .unsupported _ => .next (s.raiseUnsupported w)
  | .command i => exec i s

/-- `WR off, v` (R70), its violations in the priority of R112. -/
def hostWrite (off : Offset) (width : Nat) (v : Word) (s : State) : Host.Outcome State Fault Refusal :=
  if aligned off width then
    match windowReg off with
    | .reserved => .fault .reservedOffset
    | .status => .fault .writeReadOnly
    | .output _ => .fault .writeReadOnly
    | .input k => if s.busy then .fault .writeWhileBusy else .next (s.writeIn k v)
    | .cmd => if s.busy then .fault .writeWhileBusy else writeCommand v s
  else .fault .badAccess

/-- The host repeats a statement: it stands next again. -/
def State.again (s : State) (a : HostStmt) : State := { s with todo := a :: s.todo }

/-- `WAIT` (R70): one `RD 0x14 -> s`; while `s[0] = 1` the statement stays the host's next one. The branch is the host's
own and takes no event of the block (log 12). -/
def hostWait (s : State) : Host.Outcome State Fault Refusal :=
  match readAccess offStatus 4 s with
  | .ok v =>
    let t := s.logRead offStatus v
    if v.getLsbD 0 then .next (t.again .wait) else .next t
  | .error f => .fault f

/-- One host event. -/
def hostEvent (a : HostStmt) (s : State) : Host.Outcome State Fault Refusal :=
  match a with
  | .rd off width => hostRead off width s
  | .wr off width v => hostWrite off width v s
  | .wait => hostWait s
  | .reset => .next s.assertReset

/-- Whose turn it is. -/
inductive Turn where
  /-- The Decoder completes the pending command (10_state.md R24). -/
  | completion (op : Instr)
  /-- The host does its next statement, in the given state. -/
  | host (a : HostStmt) (s : State)
  /-- The host has nothing to do and the Decoder is not enabled (R27) or not done. -/
  | idle (s : State)
  deriving DecidableEq, Repr

/-- One host turn of the pending command's `LAT` passes (00_scope.md R6). -/
def State.tick (s : State) : State :=
  { s with pend := s.pend.map fun p => { p with wait := p.wait - 1 } }

/-- A host turn begins: the host moves past its statement, to those left. -/
def State.takeStmt (s : State) (rest : List HostStmt) : State := { s.tick with todo := rest }

/-- The next event of the one total order (20_memory.md R43; log 1): a pending command whose `LAT` has run out completes,
otherwise the host takes a turn. -/
def State.turn (s : State) : Turn :=
  match s.pend with
  | some ⟨op, _, 0⟩ => .completion op
  | _ =>
    match s.todo with
    | [] => .idle s.tick
    | a :: rest => .host a (s.takeStmt rest)

/-- One event: a completion is the pending command run while it is in flight. -/
def nextEvent (s : State) : Host.Outcome State Fault Refusal :=
  match s.turn with
  | .completion op => exec op s
  | .host a t => hostEvent a t
  | .idle t => .next t

/-- `ISSUE m` (30_encoding.md R70): the write of the command's word; the notation's own words have `ALPHA = 0` for `DXT*`. -/
def issueStmt (i : Instr) : HostStmt := .wr offCmd 4 (encode i)

/-- `LOAD8 q0, q1` (R70). -/
def load8 (q0 q1 : Word) : List HostStmt := [.wr 0x00 4 q0, .wr 0x04 4 q1]

/-- `LOAD16 q0, q1, q2, q3` (R70). -/
def load16 (q0 q1 q2 q3 : Word) : List HostStmt := [.wr 0x00 4 q0, .wr 0x04 4 q1, .wr 0x08 4 q2, .wr 0x0C 4 q3]

/-- `READTILE` (R70): `RD 0x40` to `RD 0x7C`. -/
def readTile : List HostStmt := (List.range 16).map fun j => .rd (BitVec.ofNat 7 (0x40 + 4 * j)) 4

/-- The command word placed as the host's very next statement, with no command in flight: the next event writes it to
`CMD`, decodes it and issues it (log 10). -/
def State.placeCommand (s : State) (w : Word) : State := { s with todo := .wr offCmd 4 w :: s.todo, pend := none }

end Sys2Proof.Machine
end

