-- ==== Sys2Proof/Machine/Step.lean ====
section
/-! DEFINITION. One step of the machine: the next event of the total order of 20_memory.md R43. -/

namespace Sys2Proof.Machine

/-- One step: a completion, a host access, a reset, or an idle turn. -/
def step (s : State) : Host.Outcome State Fault Refusal := nextEvent s

/-- The command word `w` of `nbits` bits placed where the machine takes its next command from: a `CMD` write as the host's
next statement, with no command in flight (log 10). -/
def State.withFetchWord (s : State) (nbits w : Nat) : State := s.placeCommand (BitVec.ofNat 32 (w % 2 ^ nbits))

end Sys2Proof.Machine
end

