-- ==== Sys2Proof/Safety.lean ====
section
/-! DEFINITION. What claims are stated in: a run that does not stop, the invariant of every reachable state, and two
states that differ only where nothing has been written. -/

namespace Sys2Proof.Machine

/-- No step of the first `n` stops (60_exceptions.md R110: a fault is final and refutes every claim). -/
def State.RunsSafely (s : State) (n : Nat) : Prop := ∀ k ≤ n, ∃ t, Sys2Proof.core.run k s = .next t

/-- What holds in every state a run reaches: the three flags always describe the last command word (D33). -/
structure State.Inv (s : State) : Prop where
  /-- `BUSY = 1 ⇒ DONE = 0 ∧ ERR = 0` (10_state.md R20). -/
  busy_flags : s.busy = true → s.done = false ∧ s.err = false
  /-- `¬(DONE = 1 ∧ ERR = 1)` (R20). -/
  done_err : ¬(s.done = true ∧ s.err = true)
  /-- `CMD` holds the word of the command in flight (R11, R22). -/
  pend_cmd : ∀ p, s.pend = some p → s.cmd = ⟨encode p.op, true⟩
  /-- The snapshot equals the live `IN`, which cannot be written while busy (R18, R32, D20). -/
  pend_snap : ∀ p, s.pend = some p → p.snap = s.inReg
  /-- Before the first `CMD` write no flag is set (R25). -/
  cmd_unwritten : s.cmd.written = false → s.busy = false ∧ s.done = false ∧ s.err = false
  /-- `CMD` never holds a reserved word: its write is a violation (R55). -/
  cmd_not_reserved : s.cmd.written = true → decode s.cmd.val ≠ .reserved
  /-- After an unsupported word only `ERR` is set (R17, R23). -/
  cmd_unsupported : s.cmd.written = true → ∀ v, decode s.cmd.val = .unsupported v →
    s.err = true ∧ s.busy = false ∧ s.done = false
  /-- After a command's word the command is in flight or done (R16, R22, R24). -/
  cmd_command : s.cmd.written = true → ∀ i, decode s.cmd.val = .command i →
    s.err = false ∧ (s.busy = true ∨ s.done = true)
  /-- `DONE = 1`: `OUT.t[0]` holds a result, and after a block command all sixteen words do (R16, R87). -/
  done_out : s.done = true → s.out[0].written = true ∧
    ∀ i, decode s.cmd.val = .command i → i ≠ .raw3 → i ≠ .raw4 → ∀ k : Fin 16, s.out[k].written = true
  /-- Only block commands write `OUT.t[1..15]`, and they write all sixteen words (R87, R105). -/
  out_marks : ∀ j : Fin 16, j ≠ 0 → s.out[j].written = true → ∀ k : Fin 16, s.out[k].written = true

/-- Equal marks, and equal values where written. -/
def RegWord.Agrees (a b : RegWord) : Prop := a.written = b.written ∧ (a.written = true → a.val = b.val)

/-- `RegWord.Agrees` at every word. -/
def WordsAgree {n : Nat} (a b : Vector RegWord n) : Prop := ∀ k : Fin n, (a[k]).Agrees b[k]

/-- Both have the same command in flight, with agreeing snapshots, or none. -/
def PendAgrees : Option Pend → Option Pend → Prop
  | none, none => True
  | some p, some q => p.op = q.op ∧ p.wait = q.wait ∧ WordsAgree p.snap q.snap
  | none, some _ => False
  | some _, none => False

/-- The two states differ only in the values of words marked unwritten (10_state.md R21). -/
structure State.SameWritten (s t : State) : Prop where
  inReg : WordsAgree s.inReg t.inReg
  cmd : s.cmd.Agrees t.cmd
  done : s.done = t.done
  err : s.err = t.err
  out : WordsAgree s.out t.out
  pend : PendAgrees s.pend t.pend
  todo : s.todo = t.todo
  reads : s.reads = t.reads
  issues : s.issues = t.issues

end Sys2Proof.Machine
end

