-- ==== Sys2Proof/WellFormed.lean ====
section
/-! DEFINITION. Well-formed terms. A command has no operand that could be out of range (30_encoding.md R51: no register
fields, no immediates), so every `Instr` is well-formed. A host statement can be ill-formed by itself, whatever the state:
wrong width or alignment (20_memory.md R37), a reserved offset (R30), a write to a read-only register (R36, R39), a
reserved command word (R55). An ill-formed statement faults in every state. -/

namespace Sys2Proof

/-- Every command is well-formed: `ALPHA` may hold either value (R52), and there is no other operand. -/
def Instr.wf : Instr → Bool
  | .raw3 => true
  | .raw4 => true
  | .dxt1 _ => true
  | .dxt2 _ => true
  | .dxt3 _ => true
  | .dxt4 _ => true
  | .dxt5 _ => true

/-- A host statement that no state-independent rule of 60_exceptions.md R111 makes a protocol violation. -/
def Machine.HostStmt.wf : HostStmt → Bool
  | .rd off width => aligned off width && windowReg off != .reserved
  | .wr off width v =>
    aligned off width &&
      match windowReg off with
      | .input _ => true
      | .cmd => decode v != .reserved
      | .status => false
      | .reserved => false
      | .output _ => false
  | .wait => true
  | .reset => true

end Sys2Proof
end

