-- ==== Sys2Proof/Certificates/Slice0/Obligations.lean ====
section
/-! DEFINITION. The statements for the provers. Each formalises the rules its entry of OBLIGATIONS.json names. Expected
results are written here from the spec's own formulas and tables, as natural-number arithmetic on the snapshot's words,
never from the model's datapath functions. -/

namespace Sys2Proof.Claims

open Sys2Proof.Machine

/-! ### The spec's arithmetic, written apart from the model -/

/-- The `from = 5` table of 40_color_block.md R73. -/
def table5 : List Nat :=
  [0, 8, 16, 25, 33, 41, 49, 58, 66, 74, 82, 90, 99, 107, 115, 123] ++
    [132, 140, 148, 156, 164, 173, 181, 189, 197, 205, 214, 222, 230, 238, 247, 255]

/-- The `from = 6` table of R73. -/
def table6 : List Nat :=
  [0, 4, 8, 12, 16, 20, 24, 28, 32, 36, 40, 45, 49, 53, 57, 61] ++
    [65, 69, 73, 77, 81, 85, 89, 93, 97, 101, 105, 109, 113, 117, 121, 125] ++
    [130, 134, 138, 142, 146, 150, 154, 158, 162, 166, 170, 174, 178, 182, 186, 190] ++
    [194, 198, 202, 206, 210, 214, 219, 223, 227, 231, 235, 239, 243, 247, 251, 255]

/-- The `from = 4` table of R73. -/
def table4 : List Nat := [0, 17, 34, 51, 68, 85, 102, 119, 136, 152, 169, 186, 203, 220, 237, 254]

/-- The exact nearest value `round(c * 255 / (2^n - 1))` that R73 compares with. -/
def nearest (c n : Nat) : Nat := (2 * 255 * c + (2 ^ n - 1)) / (2 * (2 ^ n - 1))

/-- `x` of R71 for `to = 8`. -/
def expandX (c n : Nat) : Nat := 2 ^ (n - 1) + c * 255

/-- How many bytes of `IN` a command reads (30_encoding.md R57). -/
def unitLength : Instr → Nat
  | .raw3 => 3
  | .raw4 => 4
  | .dxt1 _ => 8
  | .dxt2 _ => 16
  | .dxt3 _ => 16
  | .dxt4 _ => 16
  | .dxt5 _ => 16

/-- Byte `i` of a 16-byte register (20_memory.md R31, R42). -/
def byteAt (r : InReg) (i : Nat) : Nat :=
  (if i < 4 then r[0] else if i < 8 then r[1] else if i < 12 then r[2] else r[3]).val.toNat / 256 ^ (i % 4) % 256

/-- The first endpoint of the colour sub-block at byte `s` (30_encoding.md R61). -/
def end0 (r : InReg) (s : Nat) : Nat := byteAt r s + 256 * byteAt r (s + 1)

/-- The second endpoint (R61). -/
def end1 (r : InReg) (s : Nat) : Nat := byteAt r (s + 2) + 256 * byteAt r (s + 3)

/-- Texel `j`'s colour index, in R61's second form: byte `s+4+(j div 4)`, shifted right by `2*(j mod 4)`. -/
def cidx (r : InReg) (s j : Nat) : Nat := byteAt r (s + 4 + j / 4) / 4 ^ (j % 4) % 4

/-- Red, green, blue of an endpoint, expanded (R62, R74), by the tables of R73. -/
def red (c : Nat) : Nat := table5.getD (c / 2048) 0

def green (c : Nat) : Nat := table6.getD (c / 32 % 64) 0

def blue (c : Nat) : Nat := table5.getD (c % 32) 0

/-- One channel of palette entry `k`: the four-colour palette (R75) or, with `three`, the three-colour one (R76). -/
def channel (three : Bool) (k x0 x1 : Nat) : Nat :=
  match k with
  | 0 => x0
  | 1 => x1
  | 2 => if three then (x0 + x1) / 2 else (2 * x0 + x1) / 3
  | _ => if three then 0 else (x0 + 2 * x1) / 3

/-- Bits [23:0] of a palette entry: R, G, B from the lowest byte (R67). -/
def rgbOf (three : Bool) (k c0 c1 : Nat) : Nat :=
  channel three k (red c0) (red c1) + 256 * channel three k (green c0) (green c1) +
    65536 * channel three k (blue c0) (blue c1)

/-- Texel `j` of a `DXT1` tile (41_dxt1.md R85, R86). -/
def dxt1Texel (r : InReg) (j : Nat) : Nat :=
  let three := decide (end0 r 0 ≤ end1 r 0)
  rgbOf three (cidx r 0 j) (end0 r 0) (end1 r 0) + 16777216 * (if three && cidx r 0 j == 3 then 0 else 255)

/-- Texel `j`'s explicit alpha nibble, in R63's second form. -/
def nibble (r : InReg) (j : Nat) : Nat := byteAt r (j / 2) / 16 ^ (j % 2) % 16

/-- The four-colour part of a `DXT2` to `DXT5` texel: bits [23:0] (42_dxt23.md R90). -/
def fourColor (r : InReg) (j : Nat) : Nat := rgbOf false (cidx r 8 j) (end0 r 8) (end1 r 8)

/-- Texel `j` of a `DXT3` tile (R91). -/
def dxt3Texel (r : InReg) (j : Nat) : Nat := fourColor r j + 16777216 * table4.getD (nibble r j) 0

/-- The 48 index bits of an interpolated alpha sub-block, bits [63:16] of R64's `L`. -/
def indexBits (r : InReg) : Nat :=
  byteAt r 2 + 2 ^ 8 * byteAt r 3 + 2 ^ 16 * byteAt r 4 + 2 ^ 24 * byteAt r 5 + 2 ^ 32 * byteAt r 6 + 2 ^ 40 * byteAt r 7

/-- Texel `j`'s alpha index (R64). -/
def aidx (r : InReg) (j : Nat) : Nat := indexBits r / 2 ^ (3 * j) % 8

/-- Entry `i` of the alpha palette (43_dxt45.md R95 to R97). -/
def alphaEntry (a0 a1 i : Nat) : Nat :=
  if i = 0 then a0
  else if i = 1 then a1
  else if a1 < a0 then ((8 - i) * a0 + (i - 1) * a1) / 7
  else if i ≤ 5 then ((6 - i) * a0 + (i - 1) * a1) / 5
  else if i = 6 then 0
  else 255

/-- Texel `j` of a `DXT5` tile (R99). -/
def dxt5Texel (r : InReg) (j : Nat) : Nat :=
  fourColor r j + 16777216 * alphaEntry (byteAt r 0) (byteAt r 1) (aidx r j)

/-- The exchange of bits [7:0] and [23:16] of a word, with a given alpha byte (44_uncompressed.md R102, R103). -/
def swapped (w alpha : Nat) : Nat := w / 65536 % 256 + 256 * (w / 256 % 256) + 65536 * (w % 256) + 16777216 * alpha

/-! ### Frames and turns -/

/-- A completion changes `OUT`, `PEND` and `STATUS` (`BUSY <- 0`, `DONE <- 1`) and nothing else (10_state.md R24). -/
def CompletedFrom (s t : State) : Prop :=
  t.pend = none ∧ t.busy = false ∧ t.done = true ∧ t.err = s.err ∧ t.inReg = s.inReg ∧ t.cmd = s.cmd ∧
    t.todo = s.todo ∧ t.reads = s.reads ∧ t.issues = s.issues

/-- A host read changes nothing of the block: the host has one more value, kept in `reads` (20_memory.md R41; log 3). -/
def OnlyRead (s t : State) (off : Offset) (v : Word) : Prop :=
  t.reads = ⟨off, v⟩ :: s.reads ∧ t.inReg = s.inReg ∧ t.cmd = s.cmd ∧ t.done = s.done ∧ t.err = s.err ∧
    t.out = s.out ∧ t.pend = s.pend ∧ t.todo = s.todo ∧ t.issues = s.issues

/-- The next event is the host's statement `a`. -/
def HostNext (s : State) (a : HostStmt) : Prop := (∀ p, s.pend = some p → p.wait ≠ 0) ∧ s.todo.head? = some a

/-- The next event is the completion of the pending command. -/
def Completes (s : State) : Prop := ∃ p, s.pend = some p ∧ p.wait = 0

/-- The first violation that applies, in the order listed. -/
def firstViolation : List (Bool × Fault) → Option Fault
  | [] => none
  | (b, f) :: rest => if b then some f else firstViolation rest

/-- The word at an offset is marked unwritten (10_state.md R21). -/
def unwrittenAt (off : Nat) (s : State) : Bool :=
  if off < 0x10 then !(s.inReg.toList.getD (off / 4) RegWord.unwritten).written
  else if off < 0x14 then !s.cmd.written
  else if off < 0x40 then false
  else !(s.out.toList.getD (off / 4 - 16) RegWord.unwritten).written

/-- The violations a host read can be, in the order of 60_exceptions.md R112. -/
def readViolations (off width : Nat) (s : State) : List (Bool × Fault) :=
  [(width != 4 || off % 4 != 0, .badAccess), (decide (0x18 ≤ off ∧ off < 0x40), .reservedOffset),
    (decide (0x40 ≤ off) && s.busy, .readWhileBusy), (unwrittenAt off s, .readUnwritten)]

/-- The violations a host write can be, in the order of R112. -/
def writeViolations (off width : Nat) (v : Word) (s : State) : List (Bool × Fault) :=
  [(width != 4 || off % 4 != 0, .badAccess), (decide (0x18 ≤ off ∧ off < 0x40), .reservedOffset),
    (decide (off = 0x14 ∨ 0x40 ≤ off), .writeReadOnly), (s.busy, .writeWhileBusy),
    (decide (off = 0x10 ∧ 16 ≤ v.toNat), .reservedCommand)]

end Sys2Proof.Claims

open Sys2Proof Sys2Proof.Machine Sys2Proof.Claims

/-! ### The command word -/

/-- The twelve words of R52's table decode to their commands. -/
def Obligations.CommandWordsDecode : Prop :=
  decode 0x00000000 = .command .raw3 ∧ decode 0x00000008 = .command .raw4 ∧
  decode 0x00000001 = .command (.dxt1 false) ∧ decode 0x00000009 = .command (.dxt1 true) ∧
  decode 0x00000002 = .command (.dxt2 false) ∧ decode 0x0000000A = .command (.dxt2 true) ∧
  decode 0x00000003 = .command (.dxt3 false) ∧ decode 0x0000000B = .command (.dxt3 true) ∧
  decode 0x00000004 = .command (.dxt4 false) ∧ decode 0x0000000C = .command (.dxt4 true) ∧
  decode 0x00000005 = .command (.dxt5 false) ∧ decode 0x0000000D = .command (.dxt5 true)

/-- `Decode` on every 32-bit word (R56): the reserved bits first, then `VARIANT`, then `ALPHA` for `VARIANT = 0`. -/
def Obligations.DecodeOfEveryWord : Prop :=
  ∀ w : Word,
    (16 ≤ w.toNat → decode w = .reserved) ∧
    (w.toNat < 16 → w.toNat % 8 = 0 → w.toNat / 8 = 0 → decode w = .command .raw3) ∧
    (w.toNat < 16 → w.toNat % 8 = 0 → w.toNat / 8 = 1 → decode w = .command .raw4) ∧
    (w.toNat < 16 → w.toNat % 8 = 1 → ∃ a, decode w = .command (.dxt1 a)) ∧
    (w.toNat < 16 → w.toNat % 8 = 2 → ∃ a, decode w = .command (.dxt2 a)) ∧
    (w.toNat < 16 → w.toNat % 8 = 3 → ∃ a, decode w = .command (.dxt3 a)) ∧
    (w.toNat < 16 → w.toNat % 8 = 4 → ∃ a, decode w = .command (.dxt4 a)) ∧
    (w.toNat < 16 → w.toNat % 8 = 5 → ∃ a, decode w = .command (.dxt5 a)) ∧
    (w.toNat < 16 → 6 ≤ w.toNat % 8 → ∃ v, decode w = .unsupported v ∧ v.toNat = w.toNat % 8)

/-- Decode and encode agree in both directions: a command's word is the only word that decodes to it. -/
def Obligations.DecodeInvertsEncode : Prop := ∀ (i : Instr) (w : Word), decode w = .command i ↔ w = encode i

/-- R68: the four illegal words; issuing one raises the error and is not a fault. -/
def Obligations.UnsupportedWordsRaiseError : Prop :=
  (∀ w : Word, (∃ v, decode w = .unsupported v) ↔ w = 0x00000006 ∨ w = 0x00000007 ∨ w = 0x0000000E ∨ w = 0x0000000F) ∧
  ∀ (w : Word) (v : BitVec 3) (s : State), decode w = .unsupported v → s.pend = none →
    ∃ t, hostEvent (.wr 0x10 4 w) s = .next t ∧ t.err = true

/-- A DXT command's word with bit 3 exchanged is the same DXT command, and both complete alike. -/
def Obligations.AlphaBitIgnoredByDxt : Prop :=
  ∀ (c : Bool → Instr), c ∈ [Instr.dxt1, .dxt2, .dxt3, .dxt4, .dxt5] →
    (∀ (w : Word) (a : Bool), decode w = .command (c a) → decode (w ^^^ 8) = .command (c !a)) ∧
    ∀ (a b : Bool) (s : State) (snap : InReg) (n : Nat),
      exec (c a) { s with pend := some ⟨c a, snap, n⟩ } = exec (c b) { s with pend := some ⟨c b, snap, n⟩ }

/-- R55: a word with a bit of [31:4] set is `RESERVED`, whatever its variant, and writing it is `ReservedCommand`. -/
def Obligations.ReservedWordFaults : Prop :=
  ∀ w : Word, 16 ≤ w.toNat → decode w = .reserved ∧
    ∀ s : State, s.pend = none → hostEvent (.wr 0x10 4 w) s = .fault .reservedCommand

/-! ### The register window -/

/-- A window access reaches the block exactly for the 128 addresses from `BASE`, a multiple of 128. -/
def Obligations.WindowAtBase : Prop :=
  Config.base % 128 = 0 ∧
  (∀ off : Offset, windowOffset (Config.base + off.toNat) = some off) ∧
  ∀ addr : Nat, (addr < Config.base ∨ Config.base + 128 ≤ addr) →
    windowOffset addr = none ∧ ∀ n v, memRead addr n = none ∧ memWrite addr n v = none

/-- R37: an access of another width or alignment is `BadAccess` in every state; no aligned 32-bit access is. -/
def Obligations.BadAccessFaults : Prop :=
  ∀ (off : Offset) (n : Nat) (v : Word) (s : State),
    ((n ≠ 4 ∨ off.toNat % 4 ≠ 0) →
      hostEvent (.rd off n) s = .fault .badAccess ∧ hostEvent (.wr off n v) s = .fault .badAccess) ∧
    (n = 4 → off.toNat % 4 = 0 →
      hostEvent (.rd off n) s ≠ .fault .badAccess ∧ hostEvent (.wr off n v) s ≠ .fault .badAccess)

/-- R30: an aligned access at `0x18` to `0x3C` is `ReservedOffset` in every state. -/
def Obligations.ReservedOffsetFaults : Prop :=
  ∀ (off : Offset) (v : Word) (s : State), 0x18 ≤ off.toNat → off.toNat ≤ 0x3C → off.toNat % 4 = 0 →
    hostEvent (.rd off 4) s = .fault .reservedOffset ∧ hostEvent (.wr off 4 v) s = .fault .reservedOffset

/-- A write to `STATUS` or to an `OUT` word is `WriteReadOnly` in every state, busy or not. -/
def Obligations.ReadOnlyWritesFault : Prop :=
  ∀ (v : Word) (s : State), hostEvent (.wr 0x14 4 v) s = .fault .writeReadOnly ∧
    ∀ j : Fin 16, hostEvent (.wr (BitVec.ofNat 7 (0x40 + 4 * j.val)) 4 v) s = .fault .writeReadOnly

/-- R112: a host access is reported as the first violation that applies; with none it goes on. -/
def Obligations.ViolationPriority : Prop :=
  ∀ (off : Offset) (n : Nat) (v : Word) (s : State),
    (∀ f, firstViolation (readViolations off.toNat n s) = some f → hostEvent (.rd off n) s = .fault f) ∧
    (firstViolation (readViolations off.toNat n s) = none → ∃ t, hostEvent (.rd off n) s = .next t) ∧
    (∀ f, firstViolation (writeViolations off.toNat n v s) = some f → hostEvent (.wr off n v) s = .fault f) ∧
    (firstViolation (writeViolations off.toNat n v s) = none → ∃ t, hostEvent (.wr off n v) s = .next t ∧
      (off.toNat = 0x10 → 6 ≤ v.toNat % 8 → t.err = true ∧ t.pend = none))

/-- A host statement that is ill-formed by itself faults in every state; a well-formed read or write can go on. -/
def Obligations.IllFormedStatementsFault : Prop :=
  ∀ a : HostStmt, (a.wf = false → ∀ s : State, ∃ f, hostEvent a s = .fault f) ∧
    (a.wf = true → ∃ s t : State, hostEvent a s = .next t)

/-- R32: writing `INk` while not busy. -/
def Obligations.WriteInput : Prop :=
  ∀ (k : Fin 4) (v : Word) (s : State),
    (s.busy = false → ∃ t, hostEvent (.wr (BitVec.ofNat 7 (4 * k.val)) 4 v) s = .next t ∧
      (∀ i < 4, byteAt t.inReg (4 * k.val + i) = v.toNat / 256 ^ i % 256) ∧ t.inReg[k].written = true ∧
      (∀ l : Fin 4, l ≠ k → t.inReg[l] = s.inReg[l]) ∧
      t.cmd = s.cmd ∧ t.done = s.done ∧ t.err = s.err ∧ t.out = s.out ∧ t.pend = s.pend ∧ t.todo = s.todo ∧
      t.reads = s.reads ∧ t.issues = s.issues) ∧
    (s.busy = true → hostEvent (.wr (BitVec.ofNat 7 (4 * k.val)) 4 v) s = .fault .writeWhileBusy)

/-- R33: reading `INk`, busy or not. -/
def Obligations.ReadInput : Prop :=
  ∀ (k : Fin 4) (s : State),
    (s.inReg[k].written = true → ∃ t v, hostEvent (.rd (BitVec.ofNat 7 (4 * k.val)) 4) s = .next t ∧
      OnlyRead s t (BitVec.ofNat 7 (4 * k.val)) v ∧
      v.toNat = byteAt s.inReg (4 * k.val) + 256 * byteAt s.inReg (4 * k.val + 1) +
        65536 * byteAt s.inReg (4 * k.val + 2) + 16777216 * byteAt s.inReg (4 * k.val + 3)) ∧
    (s.inReg[k].written = false → hostEvent (.rd (BitVec.ofNat 7 (4 * k.val)) 4) s = .fault .readUnwritten)

/-- R35: reading `CMD`, busy or not; it returns the last word written. -/
def Obligations.ReadCommand : Prop :=
  (∀ s : State, s.cmd.written = true → ∃ t, hostEvent (.rd 0x10 4) s = .next t ∧ OnlyRead s t 0x10 s.cmd.val) ∧
  (∀ s : State, s.cmd.written = false → hostEvent (.rd 0x10 4) s = .fault .readUnwritten) ∧
  (∀ (w : Word) (s t : State), hostEvent (.wr 0x10 4 w) s = .next t →
    ∃ u, hostEvent (.rd 0x10 4) t = .next u ∧ OnlyRead t u 0x10 w)

/-- R36: reading `STATUS`, always allowed, and writing it. -/
def Obligations.ReadStatus : Prop :=
  (∀ s : State, ∃ t v, hostEvent (.rd 0x14 4) s = .next t ∧ OnlyRead s t 0x14 v ∧
    v.toNat = (if s.err then 4 else 0) + (if s.done then 2 else 0) + (if s.pend ≠ none then 1 else 0)) ∧
  ∀ (v : Word) (s : State), hostEvent (.wr 0x14 4 v) s = .fault .writeReadOnly

/-- R38: reading `OUTj`. -/
def Obligations.ReadOutput : Prop :=
  ∀ (j : Fin 16) (s : State),
    (s.busy = true → hostEvent (.rd (BitVec.ofNat 7 (0x40 + 4 * j.val)) 4) s = .fault .readWhileBusy) ∧
    (s.busy = false → s.out[j].written = false →
      hostEvent (.rd (BitVec.ofNat 7 (0x40 + 4 * j.val)) 4) s = .fault .readUnwritten) ∧
    (s.busy = false → s.out[j].written = true →
      ∃ t, hostEvent (.rd (BitVec.ofNat 7 (0x40 + 4 * j.val)) 4) s = .next t ∧
        OnlyRead s t (BitVec.ofNat 7 (0x40 + 4 * j.val)) s.out[j].val)

/-- Reads have no side effect on the block: a read leaves every later read of any register with the value it would have
had, so repeating a read returns the same value. -/
def Obligations.ReadsHaveNoSideEffect : Prop :=
  ∀ (off off' : Offset) (n n' : Nat) (s t : State), hostEvent (.rd off n) s = .next t →
    readAccess off' n' t = readAccess off' n' s ∧
    ∃ u v, hostEvent (.rd off n) t = .next u ∧ t.reads = ⟨off, v⟩ :: s.reads ∧ u.reads = ⟨off, v⟩ :: t.reads

/-- A write of `INk` is seen by the very next read, and repeating it changes nothing. -/
def Obligations.InputWriteSeenAtOnce : Prop :=
  ∀ (k : Fin 4) (v : Word) (s : State), s.busy = false →
    ∃ t u, hostEvent (.wr (BitVec.ofNat 7 (4 * k.val)) 4 v) s = .next t ∧
      hostEvent (.rd (BitVec.ofNat 7 (4 * k.val)) 4) t = .next u ∧ OnlyRead t u (BitVec.ofNat 7 (4 * k.val)) v ∧
      hostEvent (.wr (BitVec.ofNat 7 (4 * k.val)) 4 v) t = .next t

/-! ### Issue and the architected error -/

/-- R22: issue of a supported command, by the `CMD` write and by the command itself where nothing is in flight; a write
while busy and a reserved word are violations. -/
def Obligations.IssueOfCommand : Prop :=
  (∀ (w : Word) (i : Instr) (s : State), decode w = .command i → s.busy = false →
    hostEvent (.wr 0x10 4 w) s = exec i s ∧
    ∃ t p, exec i s = .next t ∧ t.cmd = ⟨w, true⟩ ∧ t.done = false ∧ t.err = false ∧ t.pend = some p ∧ p.op = i ∧
      p.snap = s.inReg ∧ t.busy = true ∧ t.inReg = s.inReg ∧ t.out = s.out ∧ t.todo = s.todo ∧ t.reads = s.reads) ∧
  (∀ (w : Word) (s : State), s.busy = true → hostEvent (.wr 0x10 4 w) s = .fault .writeWhileBusy) ∧
  (∀ (w : Word) (s : State), s.busy = false → 16 ≤ w.toNat → hostEvent (.wr 0x10 4 w) s = .fault .reservedCommand)

/-- R23: issue of an unsupported variant. -/
def Obligations.IssueOfUnsupportedVariant : Prop :=
  ∀ (w : Word) (s : State), w.toNat < 16 → 6 ≤ w.toNat % 8 → s.busy = false →
    ∃ t, hostEvent (.wr 0x10 4 w) s = .next t ∧ t.cmd = ⟨w, true⟩ ∧ t.done = false ∧ t.busy = false ∧ t.err = true ∧
      t.pend = none ∧ (∀ op, t.turn ≠ .completion op) ∧ t.out = s.out ∧ t.inReg = s.inReg ∧ t.todo = s.todo ∧
      t.reads = s.reads ∧ t.issues = s.issues

/-- Once `ERR` is 1 only a `CMD` write or a reset takes it back, and a second unsupported word leaves it 1. -/
def Obligations.ErrorStaysUntilNextCommand : Prop :=
  ∀ s t : State, step s = .next t → s.err = true →
    (t.err = false → (∃ w i, HostNext s (.wr 0x10 4 w) ∧ decode w = .command i) ∨ HostNext s .reset) ∧
    (∀ w v, HostNext s (.wr 0x10 4 w) → decode w = .unsupported v → t.err = true)

/-! ### One step -/

/-- The word at the head of the host's statements is fetched, decoded and run: the step is exec of the decoded command,
the host having moved past its statement. That host statements are a list in the state is the model's choice (log 3). -/
def Obligations.StepRunsCommandWord : Prop :=
  ∀ (w : Word) (i : Instr) (rest : List HostStmt) (s : State), s.pend = none → s.todo = .wr 0x10 4 w :: rest →
    decode w = .command i → step s = exec i { s with todo := rest }

/-- A pending command whose `LAT` has run out is run by the step, whatever the host would do next (R24). Counting `LAT` in
host turns is the model's choice (log 1). -/
def Obligations.StepCompletesPending : Prop :=
  ∀ (p : Pend) (s : State), s.pend = some p → p.wait = 0 → step s = exec p.op s

/-- Otherwise the host takes its next statement, one turn of `LAT` passing; with no statement left the turn is idle. The
Decoder never starts work of its own (R27). The turns and the idle step are the model's choice (log 1, 3). -/
def Obligations.StepTakesHostTurn : Prop :=
  ∀ s : State,
    (∀ a rest, s.pend = none → s.todo = a :: rest → step s = hostEvent a { s with todo := rest }) ∧
    (s.pend = none → s.todo = [] → step s = .next s) ∧
    (∀ p n a rest, s.pend = some p → p.wait = n + 1 → s.todo = a :: rest →
      step s = hostEvent a { s with todo := rest, pend := some { p with wait := n } }) ∧
    (∀ p n, s.pend = some p → p.wait = n + 1 → s.todo = [] →
      step s = .next { s with pend := some { p with wait := n } })

/-- `WAIT` (R70): one read of `STATUS`; the statement stays while `BUSY` is 1. That the branch takes no event is the model's
choice (log 12). -/
def Obligations.WaitPollsStatus : Prop :=
  ∀ s : State, ∃ t v, hostEvent .wait s = .next t ∧ t.reads = ⟨0x14, v⟩ :: s.reads ∧ v = s.statusWord ∧
    (v.toNat % 2 = 1 → t.todo = .wait :: s.todo) ∧ (v.toNat % 2 = 0 → t.todo = s.todo) ∧
    t.inReg = s.inReg ∧ t.cmd = s.cmd ∧ t.done = s.done ∧ t.err = s.err ∧ t.out = s.out ∧ t.pend = s.pend ∧
    t.issues = s.issues

/-! ### Completion of each command -/

/-- R85: `DXT1`. -/
def Obligations.Dxt1Completes : Prop :=
  decode 0x00000001 = .command (.dxt1 false) ∧ decode 0x00000009 = .command (.dxt1 true) ∧
  ∀ (a : Bool) (s : State) (p : Pend), s.pend = some p → p.op = .dxt1 a →
    (p.snap[0].written = true ∧ p.snap[1].written = true →
      ∃ t, exec (.dxt1 a) s = .next t ∧ CompletedFrom s t ∧
        ∀ j : Fin 16, t.out[j].written = true ∧ t.out[j].val.toNat = dxt1Texel p.snap j.val) ∧
    (¬(p.snap[0].written = true ∧ p.snap[1].written = true) → exec (.dxt1 a) s = .fault .unwrittenOperand)

/-- R91: `DXT3`. -/
def Obligations.Dxt3Completes : Prop :=
  decode 0x00000003 = .command (.dxt3 false) ∧ decode 0x0000000B = .command (.dxt3 true) ∧
  ∀ (a : Bool) (s : State) (p : Pend), s.pend = some p → p.op = .dxt3 a →
    ((∀ k : Fin 4, p.snap[k].written = true) →
      ∃ t, exec (.dxt3 a) s = .next t ∧ CompletedFrom s t ∧
        ∀ j : Fin 16, t.out[j].written = true ∧ t.out[j].val.toNat = dxt3Texel p.snap j.val) ∧
    (¬(∀ k : Fin 4, p.snap[k].written = true) → exec (.dxt3 a) s = .fault .unwrittenOperand)

/-- R92: `DXT2`, which is exactly `DXT3`. -/
def Obligations.Dxt2Completes : Prop :=
  decode 0x00000002 = .command (.dxt2 false) ∧ decode 0x0000000A = .command (.dxt2 true) ∧
  (∀ (a : Bool) (s : State) (p : Pend), s.pend = some p → p.op = .dxt2 a →
    ((∀ k : Fin 4, p.snap[k].written = true) →
      ∃ t, exec (.dxt2 a) s = .next t ∧ CompletedFrom s t ∧
        ∀ j : Fin 16, t.out[j].written = true ∧ t.out[j].val.toNat = dxt3Texel p.snap j.val) ∧
    (¬(∀ k : Fin 4, p.snap[k].written = true) → exec (.dxt2 a) s = .fault .unwrittenOperand)) ∧
  ∀ (a : Bool) (s : State) (snap : InReg) (n : Nat),
    exec (.dxt2 a) { s with pend := some ⟨.dxt2 a, snap, n⟩ } = exec (.dxt3 a) { s with pend := some ⟨.dxt3 a, snap, n⟩ }

/-- R99: `DXT5`. -/
def Obligations.Dxt5Completes : Prop :=
  decode 0x00000005 = .command (.dxt5 false) ∧ decode 0x0000000D = .command (.dxt5 true) ∧
  ∀ (a : Bool) (s : State) (p : Pend), s.pend = some p → p.op = .dxt5 a →
    ((∀ k : Fin 4, p.snap[k].written = true) →
      ∃ t, exec (.dxt5 a) s = .next t ∧ CompletedFrom s t ∧
        ∀ j : Fin 16, t.out[j].written = true ∧ t.out[j].val.toNat = dxt5Texel p.snap j.val) ∧
    (¬(∀ k : Fin 4, p.snap[k].written = true) → exec (.dxt5 a) s = .fault .unwrittenOperand)

/-- R100: `DXT4`, which is exactly `DXT5`. -/
def Obligations.Dxt4Completes : Prop :=
  decode 0x00000004 = .command (.dxt4 false) ∧ decode 0x0000000C = .command (.dxt4 true) ∧
  (∀ (a : Bool) (s : State) (p : Pend), s.pend = some p → p.op = .dxt4 a →
    ((∀ k : Fin 4, p.snap[k].written = true) →
      ∃ t, exec (.dxt4 a) s = .next t ∧ CompletedFrom s t ∧
        ∀ j : Fin 16, t.out[j].written = true ∧ t.out[j].val.toNat = dxt5Texel p.snap j.val) ∧
    (¬(∀ k : Fin 4, p.snap[k].written = true) → exec (.dxt4 a) s = .fault .unwrittenOperand)) ∧
  ∀ (a : Bool) (s : State) (snap : InReg) (n : Nat),
    exec (.dxt4 a) { s with pend := some ⟨.dxt4 a, snap, n⟩ } = exec (.dxt5 a) { s with pend := some ⟨.dxt5 a, snap, n⟩ }

/-- R102: `RAW3`. -/
def Obligations.Raw3Completes : Prop :=
  decode 0x00000000 = .command .raw3 ∧
  ∀ (s : State) (p : Pend), s.pend = some p → p.op = .raw3 →
    (p.snap[0].written = true →
      ∃ t, exec .raw3 s = .next t ∧ CompletedFrom s t ∧ t.out[0].written = true ∧
        t.out[0].val.toNat = swapped p.snap[0].val.toNat 255 ∧ ∀ j : Fin 16, j ≠ 0 → t.out[j] = s.out[j]) ∧
    (p.snap[0].written = false → exec .raw3 s = .fault .unwrittenOperand)

/-- R103: `RAW4`. -/
def Obligations.Raw4Completes : Prop :=
  decode 0x00000008 = .command .raw4 ∧
  ∀ (s : State) (p : Pend), s.pend = some p → p.op = .raw4 →
    (p.snap[0].written = true →
      ∃ t, exec .raw4 s = .next t ∧ CompletedFrom s t ∧ t.out[0].written = true ∧
        t.out[0].val.toNat = swapped p.snap[0].val.toNat (p.snap[0].val.toNat / 16777216) ∧
        ∀ j : Fin 16, j ≠ 0 → t.out[j] = s.out[j]) ∧
    (p.snap[0].written = false → exec .raw4 s = .fault .unwrittenOperand)

/-- The tile a completed block command leaves can be read whole: no `OUT` read of it faults (R87, R38). -/
def Obligations.BlockTileReadable : Prop :=
  ∀ (i : Instr) (s t : State), i ≠ .raw3 → i ≠ .raw4 → s.busy = true → exec i s = .next t →
    ∀ j : Fin 16, ∃ u, hostEvent (.rd (BitVec.ofNat 7 (0x40 + 4 * j.val)) 4) t = .next u ∧
      OnlyRead t u (BitVec.ofNat 7 (0x40 + 4 * j.val)) t.out[j].val

/-- R105: a texel command writes `OUT.t[0]` only; the other words read as before, or fault if never written. -/
def Obligations.TexelCommandKeepsOtherWords : Prop :=
  ∀ (i : Instr) (s t : State), (i = .raw3 ∨ i = .raw4) → s.busy = true → exec i s = .next t →
    t.out[0].written = true ∧
    ∀ j : Fin 16, j ≠ 0 → t.out[j].val = s.out[j].val ∧ t.out[j].written = s.out[j].written ∧
      (s.out[j].written = true → ∃ u, hostEvent (.rd (BitVec.ofNat 7 (0x40 + 4 * j.val)) 4) t = .next u ∧
        OnlyRead t u (BitVec.ofNat 7 (0x40 + 4 * j.val)) s.out[j].val) ∧
      (s.out[j].written = false →
        hostEvent (.rd (BitVec.ofNat 7 (0x40 + 4 * j.val)) 4) t = .fault .readUnwritten)

/-- R86: the alpha of a `DXT1` texel is 255, or 0 with R = G = B = 0 exactly when `c0 ≤ c1` and its index is 3. -/
def Obligations.Dxt1AlphaIsOneBit : Prop :=
  ∀ (a : Bool) (s t : State) (p : Pend), s.pend = some p → p.op = .dxt1 a → exec (.dxt1 a) s = .next t →
    ∀ j : Fin 16,
      (end1 p.snap 0 < end0 p.snap 0 → t.out[j].val.toNat / 16777216 = 255) ∧
      (end0 p.snap 0 ≤ end1 p.snap 0 → cidx p.snap 0 j.val = 3 → t.out[j].val = 0) ∧
      (end0 p.snap 0 ≤ end1 p.snap 0 → cidx p.snap 0 j.val ≠ 3 → t.out[j].val.toNat / 16777216 = 255)

/-- R94: the alpha of a `DXT2` or `DXT3` texel is one of the sixteen values of R89, and never 255. -/
def Obligations.ExplicitAlphaNeverOpaque : Prop :=
  ∀ (a : Bool) (i : Instr) (s t : State), (i = .dxt2 a ∨ i = .dxt3 a) → s.busy = true → exec i s = .next t →
    ∀ j : Fin 16, t.out[j].val.toNat / 16777216 ∈ table4 ∧ t.out[j].val.toNat / 16777216 ≠ 255

/-- R93: lanes of a `DXT2` or `DXT3` tile: the alpha byte depends on the texel's own nibble alone, the colour on its own
index and the shared palette alone, and every lane is written. -/
def Obligations.ExplicitLanesIndependent : Prop :=
  ∀ (a : Bool) (i : Instr) (s s' t t' : State) (p p' : Pend), (i = .dxt2 a ∨ i = .dxt3 a) →
    s.pend = some p → s'.pend = some p' → exec i s = .next t → exec i s' = .next t' → ∀ j : Fin 16,
      (nibble p.snap j.val = nibble p'.snap j.val → t.out[j].val.toNat / 16777216 = t'.out[j].val.toNat / 16777216) ∧
      (end0 p.snap 8 = end0 p'.snap 8 → end1 p.snap 8 = end1 p'.snap 8 → cidx p.snap 8 j.val = cidx p'.snap 8 j.val →
        t.out[j].val.toNat % 16777216 = t'.out[j].val.toNat % 16777216) ∧
      t.out[j].written = true

/-- R77: palette choice. `DXT1` with `c0 > c1` and the other DXT commands always use the four-colour palette. -/
def Obligations.PaletteChoice : Prop :=
  ∀ (i : Instr) (s t : State) (p : Pend), s.pend = some p → exec i s = .next t → ∀ j : Fin 16,
    (∀ a, i = .dxt1 a → end1 p.snap 0 < end0 p.snap 0 →
      t.out[j].val.toNat % 16777216 = rgbOf false (cidx p.snap 0 j.val) (end0 p.snap 0) (end1 p.snap 0)) ∧
    (∀ a, i = .dxt1 a → end0 p.snap 0 ≤ end1 p.snap 0 →
      t.out[j].val.toNat % 16777216 = rgbOf true (cidx p.snap 0 j.val) (end0 p.snap 0) (end1 p.snap 0)) ∧
    (∀ a, (i = .dxt2 a ∨ i = .dxt3 a ∨ i = .dxt4 a ∨ i = .dxt5 a) →
      t.out[j].val.toNat % 16777216 = rgbOf false (cidx p.snap 8 j.val) (end0 p.snap 8) (end1 p.snap 8))

/-- Every word of the unit must have been written at issue, and no other word matters: which completions fault. -/
def Obligations.CompletionFaultsOnUnwrittenOperand : Prop :=
  ∀ (s : State) (p : Pend), s.pend = some p →
    ((∃ k : Fin 4, 4 * k.val < unitLength p.op ∧ p.snap[k].written = false) ↔ exec p.op s = .fault .unwrittenOperand) ∧
    ((∃ t, exec p.op s = .next t) ∨ exec p.op s = .fault .unwrittenOperand)

/-- Bytes of the snapshot beyond the command's unit, and their marks, have no effect on the completion. -/
def Obligations.BytesBeyondUnitIgnored : Prop :=
  ∀ (i : Instr) (s : State) (r r' : InReg) (m n : Nat),
    (∀ b < unitLength i, byteAt r b = byteAt r' b ∧ ∀ k : Fin 4, k.val = b / 4 → r[k].written = r'[k].written) →
    exec i { s with pend := some ⟨i, r, m⟩ } = exec i { s with pend := some ⟨i, r', n⟩ }

/-- The completion computes from the snapshot, never from the live `IN` (R18): replacing `IN` while the command is in
flight replaces `IN` in the outcome and nothing else. -/
def Obligations.CompletionIgnoresLiveInput : Prop :=
  ∀ (s t : State) (p : Pend) (r : InReg), s.pend = some p → exec p.op s = .next t →
    exec p.op { s with inReg := r } = .next { t with inReg := r }

/-! ### Arithmetic of the datapath -/

/-- R73: the three tables, strictly increasing, and the entries that are not the nearest value. -/
def Obligations.ExpandTables : Prop :=
  (∀ c < 32, expand c 5 8 = table5.getD c 0 ∧ (expand c 5 8 ≠ nearest c 5 ↔ c ∈ [20, 25, 29])) ∧
  (∀ c < 64, expand c 6 8 = table6.getD c 0 ∧ (expand c 6 8 ≠ nearest c 6 ↔ c = 53)) ∧
  (∀ c < 16, expand c 4 8 = table4.getD c 0 ∧ (expand c 4 8 ≠ nearest c 4 ↔ 9 ≤ c)) ∧
  table5.length = 32 ∧ table6.length = 64 ∧ table4.length = 16 ∧
  table5.Pairwise (· < ·) ∧ table6.Pairwise (· < ·) ∧ table4.Pairwise (· < ·)

/-- R72: the widths of `expand` with `to = 8`. -/
def Obligations.ExpandWidths : Prop :=
  (∀ n ∈ [4, 5, 6], ∀ c < 2 ^ n,
    expandX c n ≤ (if n = 4 then 3833 else if n = 5 then 7921 else 16097) ∧
    expandX c n + expandX c n / 2 ^ n ≤ (if n = 4 then 4072 else if n = 5 then 8168 else 16348) ∧
    expandX c n + expandX c n / 2 ^ n < 2 ^ 14 ∧
    expand c n 8 = (expandX c n + expandX c n / 2 ^ n) / 2 ^ n ∧ expand c n 8 ≤ 255) ∧
  ∀ n, 1 ≤ n → expand 0 n 8 = 0

/-- Weights that add up to the divisor: the 8-bit weighted mean is the exact truncated quotient and lies between its two
arguments. Every palette entry of R75, R76, R96 and R97 that is computed is such a mean. -/
def Obligations.WeightedMeanExact : Prop :=
  ∀ (k0 k1 : Nat) (x y : Byte), 0 < k0 + k1 →
    (blend k0 k1 (k0 + k1) x y).toNat = (k0 * x.toNat + k1 * y.toNat) / (k0 + k1) ∧
    min x.toNat y.toNat ≤ (blend k0 k1 (k0 + k1) x y).toNat ∧ (blend k0 k1 (k0 + k1) x y).toNat ≤ max x.toNat y.toNat

/-- The alpha of a `DXT4` or `DXT5` texel is the palette entry of its own index; the entries stay within 0 and 255 and,
but for the two fixed ones, between the endpoints. -/
def Obligations.InterpolatedAlphaSelected : Prop :=
  ∀ (a : Bool) (i : Instr) (s t : State) (p : Pend), (i = .dxt4 a ∨ i = .dxt5 a) → s.pend = some p →
    exec i s = .next t → ∀ j : Fin 16,
      t.out[j].val.toNat / 16777216 = alphaEntry (byteAt p.snap 0) (byteAt p.snap 1) (aidx p.snap j.val) ∧
      ((byteAt p.snap 1 < byteAt p.snap 0 ∨ aidx p.snap j.val < 6) →
        min (byteAt p.snap 0) (byteAt p.snap 1) ≤ t.out[j].val.toNat / 16777216 ∧
        t.out[j].val.toNat / 16777216 ≤ max (byteAt p.snap 0) (byteAt p.snap 1))

/-- R84: corner cases of the colour path. -/
def Obligations.ColorCornerCases : Prop :=
  (∀ c : BitVec 16, colorPalette true c c = palette3T c c ∧ (palette3T c c)[3] = 0 ∧
    ∀ k : Fin 4, (colorPalette false c c)[k].toNat = red c.toNat + 256 * green c.toNat + 65536 * blue c.toNat + 4278190080) ∧
  (colorPalette true 0x07E0 0x001F = palette4 0x07E0 0x001F ∧ (unpack565 0x07E0).b.toNat < (unpack565 0x001F).b.toNat) ∧
  colorPalette true 0 0 = #v[0xFF000000, 0xFF000000, 0xFF000000, 0x00000000] ∧
  (∀ (a : Bool) (s t : State) (p : Pend), s.pend = some p → p.op = .dxt1 a → (∀ b < 8, byteAt p.snap b = 0) →
    exec (.dxt1 a) s = .next t → ∀ j : Fin 16, t.out[j].val = 0xFF000000) ∧
  (∀ n ∈ [4, 5, 6], ∀ c < 2 ^ n, ∀ d < 2 ^ n, expand c n 8 = expand d n 8 → c = d)

/-! ### Reset -/

/-- R25: the state after reset, and no command starts until the host writes `CMD`. -/
def Obligations.ResetValues : Prop :=
  State.reset.busy = false ∧ State.reset.done = false ∧ State.reset.err = false ∧ State.reset.statusWord = 0 ∧
  State.reset.pend = none ∧ State.reset.cmd.written = false ∧
  (∀ k : Fin 4, State.reset.inReg[k].written = false) ∧ (∀ j : Fin 16, State.reset.out[j].written = false) ∧
  ∀ s t : State, s.pend = none → step s = .next t → t.pend ≠ none →
    ∃ w i, s.todo.head? = some (.wr 0x10 4 w) ∧ decode w = .command i

/-- R119: reset is one atomic event, from every state. -/
def Obligations.ResetEvent : Prop :=
  ∀ s : State, ∃ t, hostEvent .reset s = .next t ∧ t.statusWord = 0 ∧ t.done = false ∧ t.err = false ∧ t.pend = none ∧
    t.cmd.written = false ∧ (∀ k : Fin 4, t.inReg[k].written = false) ∧ (∀ j : Fin 16, t.out[j].written = false)

/-- R120: reset abandons a pending command: no completion follows, no earlier result can be read. -/
def Obligations.ResetAbandonsPending : Prop :=
  ∀ s t : State, s.busy = true → hostEvent .reset s = .next t →
    (∀ op, t.turn ≠ .completion op) ∧ t.err = false ∧ t.done = false ∧ t.busy = false ∧
    (∀ j : Fin 16, hostEvent (.rd (BitVec.ofNat 7 (0x40 + 4 * j.val)) 4) t = .fault .readUnwritten)

/-- Right after reset `STATUS` reads 0 and writes of `INk` and `CMD` are allowed (R121). The host's own statements and the
values it has read are not the block's and go on (the model's choice, log 6). -/
def Obligations.ReadyAfterReset : Prop :=
  ∀ s t : State, hostEvent .reset s = .next t →
    t.todo = s.todo ∧ t.reads = s.reads ∧ (∃ u, hostEvent (.rd 0x14 4) t = .next u ∧ OnlyRead t u 0x14 0) ∧
    (∀ (k : Fin 4) (v : Word), ∃ u, hostEvent (.wr (BitVec.ofNat 7 (4 * k.val)) 4 v) t = .next u) ∧
    (∀ w : Word, w.toNat < 16 → ∃ u, hostEvent (.wr 0x10 4 w) t = .next u)

/-! ### The whole machine -/

/-- R15: `BUSY`. -/
def Obligations.BusyChanges : Prop :=
  (∀ s : State, s.statusWord.toNat % 2 = 1 ↔ s.pend ≠ none) ∧
  ∀ s t : State, step s = .next t →
    (s.busy = false → t.busy = true → ∃ w i, HostNext s (.wr 0x10 4 w) ∧ decode w = .command i) ∧
    (s.busy = true → t.busy = false → Completes s ∨ HostNext s .reset) ∧
    (∀ w i, HostNext s (.wr 0x10 4 w) → decode w = .command i → t.busy = true) ∧
    (Completes s → t.busy = false) ∧ (HostNext s .reset → t.busy = false)

/-- Each register changes only by its writers: `IN` by a host write of one of its words while not busy, `CMD` by a host
write of it while not busy, `OUT` by a completion, `STATUS` and `PEND` by issue and completion; and each by reset. -/
def Obligations.RegistersChangeOnlyByTheirWriters : Prop :=
  ∀ s t : State, step s = .next t → ¬HostNext s .reset →
    (t.inReg ≠ s.inReg → s.pend = none ∧ ∃ off n v, HostNext s (.wr off n v) ∧ off.toNat < 0x10) ∧
    (t.cmd ≠ s.cmd → s.pend = none ∧ ∃ w, HostNext s (.wr 0x10 4 w)) ∧
    (t.out ≠ s.out → Completes s) ∧
    (t.done ≠ s.done → Completes s ∨ (s.pend = none ∧ ∃ w, HostNext s (.wr 0x10 4 w))) ∧
    (t.err ≠ s.err → s.pend = none ∧ ∃ w, HostNext s (.wr 0x10 4 w)) ∧
    (t.busy ≠ s.busy → Completes s ∨ (s.pend = none ∧ ∃ w, HostNext s (.wr 0x10 4 w))) ∧
    (∀ p q, s.pend = some p → t.pend = some q → q.op = p.op ∧ q.snap = p.snap)

/-- The invariant holds after reset. -/
def Obligations.InvAtReset : Prop := State.reset.Inv

/-- Every step keeps the invariant, from every state that has it. -/
def Obligations.StepKeepsInv : Prop := ∀ s t : State, s.Inv → step s = .next t → t.Inv

/-- A `STATUS` read that returns `BUSY = 0` after a command's word was written comes after its completion: every word the
command writes can be read. -/
def Obligations.CompletionVisible : Prop :=
  ∀ (s t : State) (v : Word) (i : Instr), s.Inv → s.cmd.written = true → decode s.cmd.val = .command i →
    hostEvent (.rd 0x14 4) s = .next t → t.reads.head? = some ⟨0x14, v⟩ → v.toNat % 2 = 0 →
    v.toNat = 2 ∧ t.done = true ∧ (∃ u, hostEvent (.rd 0x40 4) t = .next u) ∧
    (i ≠ .raw3 → i ≠ .raw4 → ∀ j : Fin 16, ∃ u, hostEvent (.rd (BitVec.ofNat 7 (0x40 + 4 * j.val)) 4) t = .next u)

/-- `WAIT` ends, whatever `LAT` is: with `n` turns left it takes `n + 2` steps, and the command has completed. The number of
steps rests on how the model counts `LAT` (log 1). -/
def Obligations.WaitEnds : Prop :=
  ∀ (s : State) (p : Pend) (rest : List HostStmt), s.pend = some p → s.todo = .wait :: rest →
    operandsWritten p.op p.snap = true →
    ∃ t u v, core.run (p.wait + 2) s = .next t ∧ t.todo = rest ∧ t.pend = none ∧ t.done = true ∧
      exec p.op s = .next u ∧ t.out = u.out ∧ t.inReg = s.inReg ∧ t.cmd = s.cmd ∧
      t.reads.head? = some ⟨0x14, v⟩ ∧ v.toNat % 4 = 2 ∧ t.reads.length = s.reads.length + p.wait + 1

/-- With an idle host no result depends on `LAT`: whatever the number of turns left, a pending command reaches the same state
or fault. The counts of steps and the idle turns rest on how the model counts `LAT` (log 1). -/
def Obligations.LatencyDoesNotMatter : Prop :=
  ∀ (s : State) (p : Pend) (m n : Nat), s.todo = [] →
    core.run (m + 1) { s with pend := some { p with wait := m } } =
      core.run (n + 1) { s with pend := some { p with wait := n } }

/-- The use sequence: with its operands written, `ISSUE` then `WAIT` runs to the command's result, the same as if it
completed at once, for every `LAT`. Turns of `LAT` (log 1) and host statements as a list in the state (log 3) are the model's
choice. -/
def Obligations.IssueThenWaitGivesResult : Prop :=
  ∀ (s : State) (w : Word) (i : Instr) (rest : List HostStmt), s.pend = none → decode w = .command i →
    s.todo = .wr 0x10 4 w :: .wait :: rest → operandsWritten i s.inReg = true →
    ∃ n t u v, core.run n s = .next t ∧ exec i s = .next u ∧ exec i u = .next v ∧ t.out = v.out ∧ t.todo = rest ∧
      t.pend = none ∧ t.done = true ∧ t.err = false ∧ t.cmd = ⟨w, true⟩ ∧ t.inReg = s.inReg

/-- What stands in a word nothing has written, a value the model names (log 5), is never observed: two states that differ
only there step alike, to states that differ only there, with the same values read and the same fault. -/
def Obligations.UnwrittenValuesUnobservable : Prop :=
  ∀ s s' : State, s.SameWritten s' →
    (∀ t, step s = .next t → ∃ t', step s' = .next t' ∧ t.SameWritten t') ∧
    (∀ f, step s = .fault f → step s' = .fault f)
end

