-- ==== Sys2Proof/Laws/Decode.lean ====
section
/-! SUPPORT. The command word's fields as arithmetic, and the two ranges a proof about every word splits into. -/

namespace Sys2Proof

theorem wordVariant_toNat (w : Word) : (wordVariant w).toNat = w.toNat % 8 := by simp [wordVariant]

/-- The reserved field is zero exactly for the sixteen words below 16. -/
theorem wordReserved_eq_zero (w : Word) : wordReserved w = 0 ↔ w.toNat < 16 := by
  have := w.isLt
  rw [← BitVec.toNat_inj]
  simp [wordReserved, Nat.shiftRight_eq_div_pow]
  omega

/-- A word with a reserved bit set. -/
theorem decode_reserved {w : Word} (h : 16 ≤ w.toNat) : decode w = .reserved := by
  have : wordReserved w ≠ 0 := fun e => by have := (wordReserved_eq_zero w).mp e; omega
  simp only [decode, ne_eq, this, not_false_eq_true, if_true]

/-- A word without one is one of sixteen. -/
theorem word_of_lt {w : Word} (h : w.toNat < 16) : ∃ n : Fin 16, w = BitVec.ofNat 32 n.val :=
  ⟨⟨w.toNat, h⟩, by simp⟩

/-- Only words below 16 decode to a command or to the error. -/
theorem lt_of_decode {w : Word} (h : decode w ≠ .reserved) : ∃ n : Fin 16, w = BitVec.ofNat 32 n.val :=
  word_of_lt (by by_contra hw; exact h (decode_reserved (by omega)))

end Sys2Proof
end

