-- ==== Sys2Proof/Laws/Operands.lean ====
section
/-! SUPPORT. Byte order as arithmetic: the value of a multi-byte field from its bytes, and back. -/

namespace Sys2Proof.Machine

/-- Appending bit strings adds the scaled high part. -/
theorem append_toNat {m n : Nat} (x : BitVec m) (y : BitVec n) : (x ++ y).toNat = x.toNat * 2 ^ n + y.toNat := by
  rw [BitVec.toNat_append, Nat.shiftLeft_eq, ← Nat.shiftLeft_eq, ← Nat.shiftLeft_add_eq_or_of_lt y.isLt]

theorem le16_toNat (b0 b1 : Byte) : (le16 b0 b1).toNat = b0.toNat + 256 * b1.toNat := by
  simp only [le16, append_toNat]; omega

theorem le32_toNat (b0 b1 b2 b3 : Byte) :
    (le32 b0 b1 b2 b3).toNat = b0.toNat + 256 * b1.toNat + 65536 * b2.toNat + 16777216 * b3.toNat := by
  simp only [le32, append_toNat]; omega

theorem le64_toNat (b0 b1 b2 b3 b4 b5 b6 b7 : Byte) :
    (le64 b0 b1 b2 b3 b4 b5 b6 b7).toNat =
      b0.toNat + 256 * b1.toNat + 65536 * b2.toNat + 16777216 * b3.toNat + 2 ^ 32 * b4.toNat + 2 ^ 40 * b5.toNat +
        2 ^ 48 * b6.toNat + 2 ^ 56 * b7.toNat := by
  simp only [le64, append_toNat]; omega

theorem rgba_toNat (r g b a : Byte) :
    (rgba r g b a).toNat = r.toNat + 256 * g.toNat + 65536 * b.toNat + 16777216 * a.toNat :=
  le32_toNat r g b a

/-- A field as division and remainder. -/
theorem extract_toNat {n : Nat} (x : BitVec n) (lo len : Nat) :
    (x.extractLsb' lo len).toNat = x.toNat / 2 ^ lo % 2 ^ len := by
  simp [BitVec.extractLsb'_toNat, Nat.shiftRight_eq_div_pow]

/-- Byte `i` of a word as division and remainder. -/
theorem laneByte_toNat (w : Word) (i : Nat) : (laneByte w i).toNat = w.toNat / 2 ^ (8 * i) % 256 := by
  exact extract_toNat w (8 * i) 8

/-- A word is its four lanes, little-endian. -/
theorem le32_lanes (w : Word) : le32 (laneByte w 0) (laneByte w 1) (laneByte w 2) (laneByte w 3) = w := by
  apply BitVec.eq_of_toNat_eq
  have := w.isLt
  simp only [le32_toNat, laneByte_toNat]
  omega

/-- A block command's result at one word. -/
@[simp] theorem tileWritten_getElem (f : Fin 16 → Word) (j : Nat) (h : j < 16) :
    (tileWritten f)[j] = ⟨f ⟨j, h⟩, true⟩ := by
  simp [tileWritten]

/-- A texel command's result at `OUT.t[0]`. -/
@[simp] theorem texelWritten_zero (w : Word) (out : OutReg) : (texelWritten w out)[0] = ⟨w, true⟩ := by
  simp [texelWritten]

/-- A texel command keeps every other word of `OUT`, mark included. -/
theorem texelWritten_other (w : Word) (out : OutReg) {j : Fin 16} (h : j ≠ 0) : (texelWritten w out)[j] = out[j] := by
  have : (0 : Nat) ≠ j.val := fun e => h (Fin.ext e.symm)
  simp [texelWritten, this]

end Sys2Proof.Machine
end

