-- ==== Sys2Proof/Laws/State.lean ====
section
/-! SUPPORT. One lemma per field per update of State: no later proof unfolds a record update. -/

namespace Sys2Proof.Machine

@[simp] theorem issue_inReg (s : State) (i : Instr) : (s.issue i).inReg = s.inReg := rfl
@[simp] theorem issue_cmd (s : State) (i : Instr) : (s.issue i).cmd = ⟨encode i, true⟩ := rfl
@[simp] theorem issue_done (s : State) (i : Instr) : (s.issue i).done = false := rfl
@[simp] theorem issue_err (s : State) (i : Instr) : (s.issue i).err = false := rfl
@[simp] theorem issue_out (s : State) (i : Instr) : (s.issue i).out = s.out := rfl
@[simp] theorem issue_pend (s : State) (i : Instr) : (s.issue i).pend = some ⟨i, s.inReg, Config.latency s.issues⟩ := rfl
@[simp] theorem issue_todo (s : State) (i : Instr) : (s.issue i).todo = s.todo := rfl
@[simp] theorem issue_reads (s : State) (i : Instr) : (s.issue i).reads = s.reads := rfl
@[simp] theorem issue_issues (s : State) (i : Instr) : (s.issue i).issues = s.issues + 1 := rfl

@[simp] theorem raiseUnsupported_inReg (s : State) (w : Word) : (s.raiseUnsupported w).inReg = s.inReg := rfl
@[simp] theorem raiseUnsupported_cmd (s : State) (w : Word) : (s.raiseUnsupported w).cmd = ⟨w, true⟩ := rfl
@[simp] theorem raiseUnsupported_done (s : State) (w : Word) : (s.raiseUnsupported w).done = false := rfl
@[simp] theorem raiseUnsupported_err (s : State) (w : Word) : (s.raiseUnsupported w).err = true := rfl
@[simp] theorem raiseUnsupported_out (s : State) (w : Word) : (s.raiseUnsupported w).out = s.out := rfl
@[simp] theorem raiseUnsupported_pend (s : State) (w : Word) : (s.raiseUnsupported w).pend = s.pend := rfl
@[simp] theorem raiseUnsupported_todo (s : State) (w : Word) : (s.raiseUnsupported w).todo = s.todo := rfl
@[simp] theorem raiseUnsupported_reads (s : State) (w : Word) : (s.raiseUnsupported w).reads = s.reads := rfl
@[simp] theorem raiseUnsupported_issues (s : State) (w : Word) : (s.raiseUnsupported w).issues = s.issues := rfl

@[simp] theorem complete_inReg (s : State) (o : OutReg) : (s.complete o).inReg = s.inReg := rfl
@[simp] theorem complete_cmd (s : State) (o : OutReg) : (s.complete o).cmd = s.cmd := rfl
@[simp] theorem complete_done (s : State) (o : OutReg) : (s.complete o).done = true := rfl
@[simp] theorem complete_err (s : State) (o : OutReg) : (s.complete o).err = s.err := rfl
@[simp] theorem complete_out (s : State) (o : OutReg) : (s.complete o).out = o := rfl
@[simp] theorem complete_pend (s : State) (o : OutReg) : (s.complete o).pend = none := rfl
@[simp] theorem complete_todo (s : State) (o : OutReg) : (s.complete o).todo = s.todo := rfl
@[simp] theorem complete_reads (s : State) (o : OutReg) : (s.complete o).reads = s.reads := rfl
@[simp] theorem complete_issues (s : State) (o : OutReg) : (s.complete o).issues = s.issues := rfl

@[simp] theorem writeIn_inReg (s : State) (k : Fin 4) (v : Word) : (s.writeIn k v).inReg = s.inReg.set k ⟨v, true⟩ := rfl
@[simp] theorem writeIn_cmd (s : State) (k : Fin 4) (v : Word) : (s.writeIn k v).cmd = s.cmd := rfl
@[simp] theorem writeIn_done (s : State) (k : Fin 4) (v : Word) : (s.writeIn k v).done = s.done := rfl
@[simp] theorem writeIn_err (s : State) (k : Fin 4) (v : Word) : (s.writeIn k v).err = s.err := rfl
@[simp] theorem writeIn_out (s : State) (k : Fin 4) (v : Word) : (s.writeIn k v).out = s.out := rfl
@[simp] theorem writeIn_pend (s : State) (k : Fin 4) (v : Word) : (s.writeIn k v).pend = s.pend := rfl
@[simp] theorem writeIn_todo (s : State) (k : Fin 4) (v : Word) : (s.writeIn k v).todo = s.todo := rfl
@[simp] theorem writeIn_reads (s : State) (k : Fin 4) (v : Word) : (s.writeIn k v).reads = s.reads := rfl
@[simp] theorem writeIn_issues (s : State) (k : Fin 4) (v : Word) : (s.writeIn k v).issues = s.issues := rfl

@[simp] theorem logRead_inReg (s : State) (off : Offset) (v : Word) : (s.logRead off v).inReg = s.inReg := rfl
@[simp] theorem logRead_cmd (s : State) (off : Offset) (v : Word) : (s.logRead off v).cmd = s.cmd := rfl
@[simp] theorem logRead_done (s : State) (off : Offset) (v : Word) : (s.logRead off v).done = s.done := rfl
@[simp] theorem logRead_err (s : State) (off : Offset) (v : Word) : (s.logRead off v).err = s.err := rfl
@[simp] theorem logRead_out (s : State) (off : Offset) (v : Word) : (s.logRead off v).out = s.out := rfl
@[simp] theorem logRead_pend (s : State) (off : Offset) (v : Word) : (s.logRead off v).pend = s.pend := rfl
@[simp] theorem logRead_todo (s : State) (off : Offset) (v : Word) : (s.logRead off v).todo = s.todo := rfl
@[simp] theorem logRead_reads (s : State) (off : Offset) (v : Word) : (s.logRead off v).reads = ⟨off, v⟩ :: s.reads := rfl
@[simp] theorem logRead_issues (s : State) (off : Offset) (v : Word) : (s.logRead off v).issues = s.issues := rfl

@[simp] theorem assertReset_inReg (s : State) : s.assertReset.inReg = Vector.replicate 4 RegWord.unwritten := rfl
@[simp] theorem assertReset_cmd (s : State) : s.assertReset.cmd = RegWord.unwritten := rfl
@[simp] theorem assertReset_done (s : State) : s.assertReset.done = false := rfl
@[simp] theorem assertReset_err (s : State) : s.assertReset.err = false := rfl
@[simp] theorem assertReset_out (s : State) : s.assertReset.out = Vector.replicate 16 RegWord.unwritten := rfl
@[simp] theorem assertReset_pend (s : State) : s.assertReset.pend = none := rfl
@[simp] theorem assertReset_todo (s : State) : s.assertReset.todo = s.todo := rfl
@[simp] theorem assertReset_reads (s : State) : s.assertReset.reads = s.reads := rfl
@[simp] theorem assertReset_issues (s : State) : s.assertReset.issues = s.issues := rfl

@[simp] theorem again_inReg (s : State) (a : HostStmt) : (s.again a).inReg = s.inReg := rfl
@[simp] theorem again_cmd (s : State) (a : HostStmt) : (s.again a).cmd = s.cmd := rfl
@[simp] theorem again_done (s : State) (a : HostStmt) : (s.again a).done = s.done := rfl
@[simp] theorem again_err (s : State) (a : HostStmt) : (s.again a).err = s.err := rfl
@[simp] theorem again_out (s : State) (a : HostStmt) : (s.again a).out = s.out := rfl
@[simp] theorem again_pend (s : State) (a : HostStmt) : (s.again a).pend = s.pend := rfl
@[simp] theorem again_todo (s : State) (a : HostStmt) : (s.again a).todo = a :: s.todo := rfl
@[simp] theorem again_reads (s : State) (a : HostStmt) : (s.again a).reads = s.reads := rfl
@[simp] theorem again_issues (s : State) (a : HostStmt) : (s.again a).issues = s.issues := rfl

@[simp] theorem takeStmt_inReg (s : State) (rest : List HostStmt) : (s.takeStmt rest).inReg = s.inReg := rfl
@[simp] theorem takeStmt_cmd (s : State) (rest : List HostStmt) : (s.takeStmt rest).cmd = s.cmd := rfl
@[simp] theorem takeStmt_done (s : State) (rest : List HostStmt) : (s.takeStmt rest).done = s.done := rfl
@[simp] theorem takeStmt_err (s : State) (rest : List HostStmt) : (s.takeStmt rest).err = s.err := rfl
@[simp] theorem takeStmt_out (s : State) (rest : List HostStmt) : (s.takeStmt rest).out = s.out := rfl
@[simp] theorem takeStmt_pend (s : State) (rest : List HostStmt) : (s.takeStmt rest).pend = s.tick.pend := rfl
@[simp] theorem takeStmt_todo (s : State) (rest : List HostStmt) : (s.takeStmt rest).todo = rest := rfl
@[simp] theorem takeStmt_reads (s : State) (rest : List HostStmt) : (s.takeStmt rest).reads = s.reads := rfl
@[simp] theorem takeStmt_issues (s : State) (rest : List HostStmt) : (s.takeStmt rest).issues = s.issues := rfl

@[simp] theorem tick_inReg (s : State) : s.tick.inReg = s.inReg := rfl
@[simp] theorem tick_cmd (s : State) : s.tick.cmd = s.cmd := rfl
@[simp] theorem tick_done (s : State) : s.tick.done = s.done := rfl
@[simp] theorem tick_err (s : State) : s.tick.err = s.err := rfl
@[simp] theorem tick_out (s : State) : s.tick.out = s.out := rfl
theorem tick_pend (s : State) : s.tick.pend = s.pend.map fun p => { p with wait := p.wait - 1 } := rfl
@[simp] theorem tick_todo (s : State) : s.tick.todo = s.todo := rfl
@[simp] theorem tick_reads (s : State) : s.tick.reads = s.reads := rfl
@[simp] theorem tick_issues (s : State) : s.tick.issues = s.issues := rfl

@[simp] theorem issue_busy (s : State) (i : Instr) : (s.issue i).busy = true := rfl

@[simp] theorem complete_busy (s : State) (o : OutReg) : (s.complete o).busy = false := rfl

@[simp] theorem raiseUnsupported_busy (s : State) (w : Word) : (s.raiseUnsupported w).busy = s.busy := rfl

@[simp] theorem writeIn_busy (s : State) (k : Fin 4) (v : Word) : (s.writeIn k v).busy = s.busy := rfl

@[simp] theorem logRead_busy (s : State) (off : Offset) (v : Word) : (s.logRead off v).busy = s.busy := rfl

@[simp] theorem assertReset_busy (s : State) : s.assertReset.busy = false := rfl

@[simp] theorem tick_busy (s : State) : s.tick.busy = s.busy := by
  simp [State.busy, tick_pend]

/-- Not busy is exactly no pending command. -/
theorem busy_eq_false {s : State} : s.busy = false ↔ s.pend = none := by
  simp [State.busy]

/-- Busy is exactly some pending command. -/
theorem busy_eq_true {s : State} : s.busy = true ↔ ∃ p, s.pend = some p := by
  simp [State.busy, Option.isSome_iff_exists]

@[simp] theorem again_busy (s : State) (a : HostStmt) : (s.again a).busy = s.busy := rfl

@[simp] theorem takeStmt_busy (s : State) (rest : List HostStmt) : (s.takeStmt rest).busy = s.busy := tick_busy s

/-- A host turn leaves the command and the snapshot in flight alone. -/
theorem tick_pend_eq_some {s : State} {q : Pend} (h : s.tick.pend = some q) :
    ∃ p, s.pend = some p ∧ q.op = p.op ∧ q.snap = p.snap ∧ q.wait = p.wait - 1 := by
  rw [tick_pend, Option.map_eq_some_iff] at h
  obtain ⟨p, hp, rfl⟩ := h
  exact ⟨p, hp, rfl, rfl, rfl⟩

/-- A host turn neither starts nor ends a command. -/
@[simp] theorem tick_pend_eq_none {s : State} : s.tick.pend = none ↔ s.pend = none := by
  rw [tick_pend, Option.map_eq_none_iff]

/-- No turn passes for a state with no command in flight. -/
theorem tick_of_none {s : State} (h : s.pend = none) : s.tick = s := by
  cases s; simp_all [State.tick]

/-- With no command in flight a host turn only moves the host past its statement. -/
theorem takeStmt_of_none {s : State} (h : s.pend = none) (rest : List HostStmt) :
    s.takeStmt rest = { s with todo := rest } := by
  rw [State.takeStmt, tick_of_none h]

end Sys2Proof.Machine
end

