-- ==== Sys2Proof/Laws/Exec.lean ====
section
/-! SUPPORT. What running a command can do, said once for all seven. -/

namespace Sys2Proof.Machine

/-- The result function of each command, the spec's `Exec(op, snap, OUT)` (10_state.md R24). -/
def commandResult : Instr → InReg → OutReg → OutReg
  | .raw3 => raw3Result
  | .raw4 => raw4Result
  | .dxt1 _ => dxt1Result
  | .dxt2 _ => dxt2Result
  | .dxt3 _ => dxt3Result
  | .dxt4 _ => dxt4Result
  | .dxt5 _ => dxt5Result

/-- Every arm of exec is the shared operation with that command's result. -/
theorem exec_eq_runCommand (i : Instr) (s : State) : exec i s = runCommand i (commandResult i) s := by
  cases i <;> rfl

/-- Where nothing is in flight, exec issues. -/
theorem exec_of_none {i : Instr} {s : State} (h : s.pend = none) : exec i s = .next (s.issue i) := by
  simp [exec_eq_runCommand, runCommand, h]

/-- The command in flight completes when its operands were written. -/
theorem exec_of_pending {s : State} {p : Pend} (h : s.pend = some p) (hw : operandsWritten p.op p.snap = true) :
    exec p.op s = .next (s.complete (commandResult p.op p.snap s.out)) := by
  simp [exec_eq_runCommand, runCommand, h, hw]

/-- The command in flight faults when an operand was not written. -/
theorem exec_of_unwritten {s : State} {p : Pend} (h : s.pend = some p) (hw : operandsWritten p.op p.snap = false) :
    exec p.op s = .fault .unwrittenOperand := by
  simp [exec_eq_runCommand, runCommand, h, hw]

/-- Everything a next state of exec can be: the issue, or the completion of the command in flight. -/
theorem exec_cases {i : Instr} {s t : State} (h : exec i s = .next t) :
    (s.pend = none ∧ t = s.issue i) ∨
      ∃ p, s.pend = some p ∧ p.op = i ∧ operandsWritten i p.snap = true ∧ t = s.complete (commandResult i p.snap s.out) := by
  rw [exec_eq_runCommand, runCommand] at h
  split at h
  · next hp => exact .inl ⟨hp, by simpa using h.symm⟩
  · next p hp =>
    split at h
    · next ho =>
      split at h
      · next hw => exact .inr ⟨p, hp, ho, hw, by simpa using h.symm⟩
      · cases h
    · cases h

/-- exec never refuses. -/
theorem exec_not_refused (i : Instr) (s : State) (r : Refusal) : exec i s ≠ .refused r := by
  rw [exec_eq_runCommand, runCommand]
  split
  · simp
  · split
    · split <;> simp
    · simp

end Sys2Proof.Machine
end

