-- ==== Sys2Proof/Laws/Host.lean ====
section
/-! SUPPORT. What a host event and a step can do, said once. -/

namespace Sys2Proof.Machine

/-- A host read that goes on logs the value it read and changes nothing else. -/
theorem hostRead_cases {off : Offset} {width : Nat} {s t : State} (h : hostRead off width s = .next t) :
    ∃ v, readAccess off width s = .ok v ∧ t = s.logRead off v := by
  unfold hostRead at h
  split at h
  · next v hv => exact ⟨v, hv, by simpa using h.symm⟩
  · cases h

/-- A host write that goes on writes one `IN` word, or issues a command, or raises the architected error. -/
theorem hostWrite_cases {off : Offset} {width : Nat} {v : Word} {s t : State} (h : hostWrite off width v s = .next t) :
    s.pend = none ∧ aligned off width = true ∧
      ((∃ k, windowReg off = .input k ∧ t = s.writeIn k v) ∨
        (windowReg off = .cmd ∧
          ((∃ i, decode v = .command i ∧ t = s.issue i) ∨ ∃ n, decode v = .unsupported n ∧ t = s.raiseUnsupported v))) := by
  unfold hostWrite at h
  split at h
  · next ha =>
    split at h
    · cases h
    · cases h
    · cases h
    · next k hk =>
      split at h
      · cases h
      · next hb => exact ⟨busy_eq_false.mp (by simpa using hb), ha, .inl ⟨k, hk, by simpa using h.symm⟩⟩
    · next hk =>
      split at h
      · cases h
      · next hb =>
        have hp : s.pend = none := busy_eq_false.mp (by simpa using hb)
        refine ⟨hp, ha, .inr ⟨hk, ?_⟩⟩
        unfold writeCommand at h
        split at h
        · cases h
        · next n hn => exact .inr ⟨n, hn, by simpa using h.symm⟩
        · next i hi =>
          rw [exec_of_none hp] at h
          exact .inl ⟨i, hi, by simpa using h.symm⟩
  · cases h

/-- `STATUS` is readable in every state. -/
theorem readAccess_status (s : State) : readAccess offStatus 4 s = .ok s.statusWord := rfl

/-- Bit 0 of `STATUS` is `BUSY`. -/
@[simp] theorem statusWord_bit0 (s : State) : s.statusWord[0] = s.busy := by
  have key : ∀ e d b : Bool, (0#29 ++ BitVec.ofBool e ++ BitVec.ofBool d ++ BitVec.ofBool b)[0] = b := by decide
  exact key s.err s.done s.busy

/-- `WAIT` reads `STATUS` and stays while busy. -/
theorem hostWait_eq (s : State) :
    hostWait s =
      .next (if s.busy then (s.logRead offStatus s.statusWord).again .wait
        else s.logRead offStatus s.statusWord) := by
  unfold hostWait
  rw [readAccess_status]
  cases h : s.busy <;> simp [h]

/-- The next event is a completion exactly when a pending command's `LAT` has run out. -/
theorem turn_completion {s : State} {op : Instr} :
    s.turn = .completion op ↔ ∃ snap, s.pend = some ⟨op, snap, 0⟩ := by
  unfold State.turn
  split
  · next op' snap hp => simp [hp]
  · next hne =>
    split <;> simp only [reduceCtorEq, false_iff, not_exists] <;> exact fun snap hp => hne op snap hp

/-- The next event is the host's first statement exactly when no completion is due. -/
theorem turn_host {s t : State} {a : HostStmt} :
    s.turn = .host a t ↔
      (∀ op snap, s.pend ≠ some ⟨op, snap, 0⟩) ∧ ∃ rest, s.todo = a :: rest ∧ t = s.takeStmt rest := by
  unfold State.turn
  split
  · next op snap hp => simp [hp]
  · next hne =>
    split
    · next ht => simp [ht]
    · next b rest ht =>
      simp only [Turn.host.injEq, ht, List.cons.injEq]
      constructor
      · rintro ⟨rfl, rfl⟩; exact ⟨fun op snap hp => hne op snap hp, rest, ⟨rfl, rfl⟩, rfl⟩
      · rintro ⟨-, r, ⟨rfl, rfl⟩, rfl⟩; exact ⟨rfl, rfl⟩

/-- The next event is idle exactly when no completion is due and the host has no statement left. -/
theorem turn_idle {s t : State} :
    s.turn = .idle t ↔ (∀ op snap, s.pend ≠ some ⟨op, snap, 0⟩) ∧ s.todo = [] ∧ t = s.tick := by
  unfold State.turn
  split
  · next op snap hp => simp [hp]
  · next hne =>
    split
    · next ht =>
      simp only [Turn.idle.injEq, ht, true_and]
      exact ⟨fun e => ⟨fun op snap hp => hne op snap hp, e.symm⟩, fun e => e.2.symm⟩
    · next b rest ht => simp [ht]

/-- Everything a next state of a host event can be. -/
theorem hostEvent_cases {a : HostStmt} {s t : State} (h : hostEvent a s = .next t) :
    (∃ off width v, a = .rd off width ∧ readAccess off width s = .ok v ∧ t = s.logRead off v) ∨
    (∃ off width v k, a = .wr off width v ∧ s.pend = none ∧ aligned off width = true ∧ windowReg off = .input k ∧
      t = s.writeIn k v) ∨
    (∃ off width v i, a = .wr off width v ∧ s.pend = none ∧ aligned off width = true ∧ windowReg off = .cmd ∧
      decode v = .command i ∧ t = s.issue i) ∨
    (∃ off width v n, a = .wr off width v ∧ s.pend = none ∧ aligned off width = true ∧ windowReg off = .cmd ∧
      decode v = .unsupported n ∧ t = s.raiseUnsupported v) ∨
    (a = .wait ∧ s.busy = true ∧ t = (s.logRead offStatus s.statusWord).again .wait) ∨
    (a = .wait ∧ s.busy = false ∧ t = s.logRead offStatus s.statusWord) ∨
    (a = .reset ∧ t = s.assertReset) := by
  cases a with
  | rd off width =>
    obtain ⟨v, hv, ht⟩ := hostRead_cases h
    exact .inl ⟨off, width, v, rfl, hv, ht⟩
  | wr off width v =>
    obtain ⟨hp, ha, ⟨k, hk, ht⟩ | ⟨hk, ⟨i, hi, ht⟩ | ⟨n, hn, ht⟩⟩⟩ := hostWrite_cases h
    · exact .inr (.inl ⟨off, width, v, k, rfl, hp, ha, hk, ht⟩)
    · exact .inr (.inr (.inl ⟨off, width, v, i, rfl, hp, ha, hk, hi, ht⟩))
    · exact .inr (.inr (.inr (.inl ⟨off, width, v, n, rfl, hp, ha, hk, hn, ht⟩)))
  | wait =>
    rw [hostEvent, hostWait_eq] at h
    refine .inr (.inr (.inr (.inr ?_)))
    cases hb : s.busy <;> simp only [hb] at h
    · exact .inr (.inl ⟨rfl, rfl, by simpa using h.symm⟩)
    · exact .inl ⟨rfl, rfl, by simpa using h.symm⟩
  | reset => exact .inr (.inr (.inr (.inr (.inr (.inr ⟨rfl, by simpa [hostEvent] using h.symm⟩)))))

/-- Everything a step that goes on can be: a completion, a host event, an idle turn. -/
theorem step_cases {s t : State} (h : step s = .next t) :
    (∃ p, s.pend = some p ∧ p.wait = 0 ∧ operandsWritten p.op p.snap = true ∧
      t = s.complete (commandResult p.op p.snap s.out)) ∨
    (∃ a rest, (∀ p, s.pend = some p → p.wait ≠ 0) ∧ s.todo = a :: rest ∧
      hostEvent a (s.takeStmt rest) = .next t) ∨
    ((∀ p, s.pend = some p → p.wait ≠ 0) ∧ s.todo = [] ∧ t = s.tick) := by
  have hw : (∀ op snap, s.pend ≠ some ⟨op, snap, 0⟩) → ∀ p, s.pend = some p → p.wait ≠ 0 := by
    rintro hn ⟨op, snap, w⟩ hp rfl; exact hn op snap hp
  unfold step nextEvent at h
  split at h
  · next op ht =>
    obtain ⟨snap, hp⟩ := turn_completion.mp ht
    obtain ⟨hn, -⟩ | ⟨p, hp', rfl, ho, rfl⟩ := exec_cases h
    · simp [hn] at hp
    · have hz : p.wait = 0 := by rw [Option.some.inj (hp'.symm.trans hp)]
      exact .inl ⟨p, hp', hz, ho, rfl⟩
  · next a u ht =>
    obtain ⟨hn, rest, hr, rfl⟩ := turn_host.mp ht
    exact .inr (.inl ⟨a, rest, hw hn, hr, h⟩)
  · next u ht =>
    obtain ⟨hn, hr, rfl⟩ := turn_idle.mp ht
    exact .inr (.inr ⟨hw hn, hr, by simpa using h.symm⟩)

end Sys2Proof.Machine
end

