-- ==== Sys2Proof/Laws/PerInstr.lean ====
section
/-! SUPPORT. Per-command facts about the command as a term: its word lies in its row of spec/opcode_table.json, and the
row is the table's own mask and match. -/

namespace Sys2Proof.Laws

/-- The row's `mask` (spec/opcode_table.json). -/
def TableRow.mask : Instr → Word
  | .raw3 => 0xFFFFFFFF
  | .raw4 => 0xFFFFFFFF
  | .dxt1 _ => 0xFFFFFFF7
  | .dxt2 _ => 0xFFFFFFF7
  | .dxt3 _ => 0xFFFFFFF7
  | .dxt4 _ => 0xFFFFFFF7
  | .dxt5 _ => 0xFFFFFFF7

/-- The row's `match` (spec/opcode_table.json). -/
def TableRow.bits : Instr → Word
  | .raw3 => 0x00000000
  | .raw4 => 0x00000008
  | .dxt1 _ => 0x00000001
  | .dxt2 _ => 0x00000002
  | .dxt3 _ => 0x00000003
  | .dxt4 _ => 0x00000004
  | .dxt5 _ => 0x00000005

/-- A command is well-formed and its word matches its row of the opcode table. -/
def TableRow.Statement (i : Instr) : Prop := i.wf = true ∧ encode i &&& TableRow.mask i = TableRow.bits i

theorem TableRow.raw3 : TableRow.Statement .raw3 := by unfold TableRow.Statement; decide
theorem TableRow.raw4 : TableRow.Statement .raw4 := by unfold TableRow.Statement; decide
theorem TableRow.dxt1 (alpha : Bool) : TableRow.Statement (.dxt1 alpha) := by
  unfold TableRow.Statement; revert alpha; decide
theorem TableRow.dxt2 (alpha : Bool) : TableRow.Statement (.dxt2 alpha) := by
  unfold TableRow.Statement; revert alpha; decide
theorem TableRow.dxt3 (alpha : Bool) : TableRow.Statement (.dxt3 alpha) := by
  unfold TableRow.Statement; revert alpha; decide
theorem TableRow.dxt4 (alpha : Bool) : TableRow.Statement (.dxt4 alpha) := by
  unfold TableRow.Statement; revert alpha; decide
theorem TableRow.dxt5 (alpha : Bool) : TableRow.Statement (.dxt5 alpha) := by
  unfold TableRow.Statement; revert alpha; decide

end Sys2Proof.Laws
end

