-- ==== Sys2Proof/Laws/Window.lean ====
section
/-! SUPPORT. The host events at each register of the window (20_memory.md R29), in one equation each. -/

namespace Sys2Proof.Machine

theorem windowReg_input (k : Fin 4) : windowReg (BitVec.ofNat 7 (4 * k.val)) = .input k := by revert k; decide

theorem windowReg_output (j : Fin 16) : windowReg (BitVec.ofNat 7 (0x40 + 4 * j.val)) = .output j := by revert j; decide

theorem aligned_input (k : Fin 4) : aligned (BitVec.ofNat 7 (4 * k.val)) 4 = true := by revert k; decide

theorem aligned_output (j : Fin 16) : aligned (BitVec.ofNat 7 (0x40 + 4 * j.val)) 4 = true := by revert j; decide

/-- An access that is not four bytes wide at a multiple of 4. -/
theorem aligned_false {off : Offset} {n : Nat} : aligned off n = false ↔ n ≠ 4 ∨ off.toNat % 4 ≠ 0 := by
  rw [← Bool.not_eq_true, aligned, Bool.and_eq_true, beq_iff_eq, beq_iff_eq, not_and_or]

theorem aligned_true {off : Offset} {n : Nat} : aligned off n = true ↔ n = 4 ∧ off.toNat % 4 = 0 := by
  rw [aligned, Bool.and_eq_true, beq_iff_eq, beq_iff_eq]

/-- What a window word is, from its offset. -/
theorem windowReg_eq_input {off : Offset} {k : Fin 4} : windowReg off = .input k ↔ off.toNat / 4 = k.val := by
  revert off k; decide

theorem windowReg_eq_cmd {off : Offset} : windowReg off = .cmd ↔ off.toNat / 4 = 4 := by revert off; decide

theorem windowReg_eq_status {off : Offset} : windowReg off = .status ↔ off.toNat / 4 = 5 := by revert off; decide

theorem windowReg_eq_reserved {off : Offset} : windowReg off = .reserved ↔ 6 ≤ off.toNat / 4 ∧ off.toNat / 4 < 16 := by
  revert off; decide

theorem windowReg_eq_output {off : Offset} {j : Fin 16} : windowReg off = .output j ↔ off.toNat / 4 = 16 + j.val := by
  revert off j; decide

/-- The aligned offset of `CMD` is `0x10` alone. -/
theorem off_of_cmd {off : Offset} {n : Nat} (ha : aligned off n = true) (hr : windowReg off = .cmd) : off = 0x10 ∧ n = 4 := by
  obtain ⟨hn, h4⟩ := aligned_true.mp ha
  have := windowReg_eq_cmd.mp hr
  exact ⟨by apply BitVec.eq_of_toNat_eq; simp; omega, hn⟩

/-- A write of `INk`. -/
theorem hostEvent_write_input (k : Fin 4) (v : Word) (s : State) :
    hostEvent (.wr (BitVec.ofNat 7 (4 * k.val)) 4 v) s =
      if s.busy then .fault .writeWhileBusy else .next (s.writeIn k v) := by
  simp only [hostEvent, hostWrite, aligned_input, windowReg_input, if_true]

/-- A write of `CMD`. -/
theorem hostEvent_write_cmd (w : Word) (s : State) :
    hostEvent (.wr 0x10 4 w) s = if s.busy then .fault .writeWhileBusy else writeCommand w s := rfl

/-- A write of `STATUS`. -/
theorem hostEvent_write_status (w : Word) (s : State) : hostEvent (.wr 0x14 4 w) s = .fault .writeReadOnly := rfl

/-- A write of `OUTj`. -/
theorem hostEvent_write_output (j : Fin 16) (v : Word) (s : State) :
    hostEvent (.wr (BitVec.ofNat 7 (0x40 + 4 * j.val)) 4 v) s = .fault .writeReadOnly := by
  simp only [hostEvent, hostWrite, aligned_output, windowReg_output, if_true]

/-- A read of `INk`. -/
theorem hostEvent_read_input (k : Fin 4) (s : State) :
    hostEvent (.rd (BitVec.ofNat 7 (4 * k.val)) 4) s =
      if s.inReg[k].written then .next (s.logRead (BitVec.ofNat 7 (4 * k.val)) s.inReg[k].val)
      else .fault .readUnwritten := by
  simp only [hostEvent, hostRead, readAccess, aligned_input, windowReg_input, if_true, RegWord.read]
  cases s.inReg[k].written <;> rfl

/-- A read of `CMD`. -/
theorem hostEvent_read_cmd (s : State) :
    hostEvent (.rd 0x10 4) s = if s.cmd.written then .next (s.logRead 0x10 s.cmd.val) else .fault .readUnwritten := by
  have h : hostEvent (.rd 0x10 4) s =
    match s.cmd.read with | .ok v => .next (s.logRead 0x10 v) | .error f => .fault f := rfl
  rw [h, RegWord.read]
  cases s.cmd.written <;> rfl

/-- A read of `STATUS`. -/
theorem hostEvent_read_status (s : State) : hostEvent (.rd 0x14 4) s = .next (s.logRead 0x14 s.statusWord) := rfl

/-- A read of `OUTj`. -/
theorem hostEvent_read_output (j : Fin 16) (s : State) :
    hostEvent (.rd (BitVec.ofNat 7 (0x40 + 4 * j.val)) 4) s =
      if s.busy then .fault .readWhileBusy
      else if s.out[j].written then .next (s.logRead (BitVec.ofNat 7 (0x40 + 4 * j.val)) s.out[j].val)
      else .fault .readUnwritten := by
  simp only [hostEvent, hostRead, readAccess, aligned_output, windowReg_output, if_true, RegWord.read]
  cases s.busy <;> cases s.out[j].written <;> rfl

/-- `STATUS` as a number. -/
theorem statusWord_toNat (s : State) :
    s.statusWord.toNat = (if s.err then 4 else 0) + (if s.done then 2 else 0) + (if s.busy then 1 else 0) := by
  have key : ∀ e d b : Bool, (0#29 ++ BitVec.ofBool e ++ BitVec.ofBool d ++ BitVec.ofBool b).toNat =
      (if e then 4 else 0) + (if d then 2 else 0) + (if b then 1 else 0) := by decide
  exact key s.err s.done s.busy

end Sys2Proof.Machine
end

