-- ==== Sys2Proof/Laws/Run.lean ====
section
/-! SUPPORT. Which event a step is, from the state alone, and runs of several steps. -/

namespace Sys2Proof.Machine

/-- With no completion due, the host takes its first statement. -/
theorem step_of_host {s : State} {a : HostStmt} {rest : List HostStmt} (h : ∀ p, s.pend = some p → p.wait ≠ 0)
    (ht : s.todo = a :: rest) : step s = hostEvent a (s.takeStmt rest) := by
  have : s.turn = .host a (s.takeStmt rest) := turn_host.mpr ⟨fun _ _ hp => h _ hp rfl, rest, ht, rfl⟩
  simp only [step, nextEvent, this]

/-- With no completion due and no statement left, the turn is idle. -/
theorem step_of_idle {s : State} (h : ∀ p, s.pend = some p → p.wait ≠ 0) (ht : s.todo = []) :
    step s = .next s.tick := by
  have : s.turn = .idle s.tick := turn_idle.mpr ⟨fun _ _ hp => h _ hp rfl, ht, rfl⟩
  simp only [step, nextEvent, this]

/-- A run of no step. -/
@[simp] theorem run_zero (s : State) : Sys2Proof.core.run 0 s = .next s := rfl

/-- A run whose first step goes on. -/
theorem run_succ {s t : State} (h : step s = .next t) (k : Nat) :
    Sys2Proof.core.run (k + 1) s = Sys2Proof.core.run k t := by
  have hs : Sys2Proof.core.step s = .next t := h
  simp only [Host.Core.run, hs]

/-- A run of one step is the step. -/
theorem run_one (s : State) : Sys2Proof.core.run 1 s = step s := by
  have hs : Sys2Proof.core.step s = step s := rfl
  simp only [Host.Core.run, hs]
  cases step s <;> rfl

end Sys2Proof.Machine
end

