-- ==== Sys2Proof/Tests/Slice0.lean ====
section
/-! SUPPORT. Tests with expected results from 95_test_vectors.md and from the spec's tables and encodings, each about one
event; and, for every obligation with hypotheses, states and operands that meet them. -/

namespace Sys2Proof.Tests

open Sys2Proof.Machine Sys2Proof.Claims

-- One theorem after another: as many at a time as Lean likes would need much memory for their threads' stacks.
set_option Elab.async false

/-! ### Small states -/

/-- A word a host has written. -/
def word (v : Word) : RegWord := ⟨v, true⟩

/-- `IN0` and `IN1` written, as after `LOAD8`. -/
def half (a b : Word) : InReg := #v[word a, word b, .unwritten, .unwritten]

/-- All of `IN` written, as after `LOAD16`. -/
def full (a b c d : Word) : InReg := #v[word a, word b, word c, word d]

/-- Command `i` in flight over `r`, `n` turns of `LAT` left, right after its issue. -/
def inFlight (i : Instr) (r : InReg) (n : Nat) : State :=
  { State.reset with inReg := r, cmd := word (encode i), pend := some ⟨i, r, n⟩ }

/-- The `IN` of vector V30. -/
def v30 : InReg := full 0x76543210 0xFEDCBA98 0xFFFF0000 0xFFFFFFFF

/-- Not busy, `IN` written. -/
def loaded : State := { State.reset with inReg := v30 }

/-- A `DXT3` of V30 completed, `OUT` written. -/
def completed : State :=
  { State.reset with
    inReg := v30, cmd := word 3, done := true, out := Vector.ofFn fun _ => ⟨0x00AAAAAA, true⟩ }

/-- An unsupported word rejected after that. -/
def rejected : State := { completed with cmd := word 6, done := false, err := true }

/-- The words of `OUT` an outcome leaves. -/
def outOf : Host.Outcome State Fault Refusal → Option (List Word)
  | .next t => some ((List.finRange 16).map fun j => t.out[j].val)
  | .fault _ => none
  | .refused _ => none

/-- `STATUS` after an outcome. -/
def statusOf : Host.Outcome State Fault Refusal → Option Word
  | .next t => some t.statusWord
  | .fault _ => none
  | .refused _ => none

/-- The value the last read returned. -/
def readOf : Host.Outcome State Fault Refusal → Option Word
  | .next t => t.reads.head?.map fun r => r.value
  | .fault _ => none
  | .refused _ => none

/-- The fault an outcome stops with. -/
def faultOf : Host.Outcome State Fault Refusal → Option Fault
  | .next _ => none
  | .fault f => some f
  | .refused _ => none

/-- The command an outcome leaves in flight. -/
def pendOf : Host.Outcome State Fault Refusal → Option Instr
  | .next t => t.pend.map fun p => p.op
  | .fault _ => none
  | .refused _ => none

/-- Whether an outcome is a next state. -/
def goesOn : Host.Outcome State Fault Refusal → Bool
  | .next _ => true
  | .fault _ => false
  | .refused _ => false

theorem of_goesOn {o : Host.Outcome State Fault Refusal} (h : goesOn o = true) : ∃ t, o = .next t := by
  cases o with
  | next t => exact ⟨t, rfl⟩
  | fault f => cases h
  | refused r => cases h

/-! ### WellFormed refuses an ill-formed statement for each of its checks -/

theorem test_wf_width : (HostStmt.rd 0x14 2).wf = false := by decide
theorem test_wf_write_width : (HostStmt.wr 0x00 8 0).wf = false := by decide
theorem test_wf_alignment : (HostStmt.rd 0x02 4).wf = false := by decide
theorem test_wf_reserved_offset : (HostStmt.rd 0x18 4).wf = false ∧ (HostStmt.wr 0x3C 4 0).wf = false := by decide
theorem test_wf_write_status : (HostStmt.wr 0x14 4 0).wf = false := by decide
theorem test_wf_write_out : (HostStmt.wr 0x40 4 0).wf = false := by decide
theorem test_wf_reserved_command : (HostStmt.wr 0x10 4 0x16).wf = false := by decide
theorem test_wf_accepts :
    (HostStmt.rd 0x7C 4).wf = true ∧ (HostStmt.wr 0x0C 4 5).wf = true ∧ (HostStmt.wr 0x10 4 0x6).wf = true := by decide

/-! ### Decode: words written out from 30_encoding.md R51, R52, `{reserved[31:4], ALPHA, VARIANT[2:0]}` -/

theorem test_decode_raw3 : decode (0b0000000000000000000000000000#28 ++ 0b0#1 ++ 0b000#3) = .command .raw3 := by decide
theorem test_decode_raw4 : decode (0b0000000000000000000000000000#28 ++ 0b1#1 ++ 0b000#3) = .command .raw4 := by decide
theorem test_decode_dxt1 :
    decode (0b0000000000000000000000000000#28 ++ 0b0#1 ++ 0b001#3) = .command (.dxt1 false) ∧
    decode (0b0000000000000000000000000000#28 ++ 0b1#1 ++ 0b001#3) = .command (.dxt1 true) := by decide
theorem test_decode_dxt2 :
    decode (0b0000000000000000000000000000#28 ++ 0b0#1 ++ 0b010#3) = .command (.dxt2 false) ∧
    decode (0b0000000000000000000000000000#28 ++ 0b1#1 ++ 0b010#3) = .command (.dxt2 true) := by decide
theorem test_decode_dxt3 :
    decode (0b0000000000000000000000000000#28 ++ 0b0#1 ++ 0b011#3) = .command (.dxt3 false) ∧
    decode (0b0000000000000000000000000000#28 ++ 0b1#1 ++ 0b011#3) = .command (.dxt3 true) := by decide
theorem test_decode_dxt4 :
    decode (0b0000000000000000000000000000#28 ++ 0b0#1 ++ 0b100#3) = .command (.dxt4 false) ∧
    decode (0b0000000000000000000000000000#28 ++ 0b1#1 ++ 0b100#3) = .command (.dxt4 true) := by decide
theorem test_decode_dxt5 :
    decode (0b0000000000000000000000000000#28 ++ 0b0#1 ++ 0b101#3) = .command (.dxt5 false) ∧
    decode (0b0000000000000000000000000000#28 ++ 0b1#1 ++ 0b101#3) = .command (.dxt5 true) := by decide
theorem test_decode_unsupported :
    decode 0x6 = .unsupported 6 ∧ decode 0x7 = .unsupported 7 ∧ decode 0xE = .unsupported 6 ∧
    decode 0xF = .unsupported 7 := by decide
theorem test_decode_reserved :
    decode 0x10 = .reserved ∧ decode 0x16 = .reserved ∧ decode 0x80000001 = .reserved ∧
    decode 0xFFFFFFFF = .reserved := by decide
theorem test_decodeTableWord :
    decodeTableWord 32 0 = some .raw3 ∧ decodeTableWord 32 8 = some .raw4 ∧ decodeTableWord 32 1 = some (.dxt1 false) ∧
    decodeTableWord 32 13 = some (.dxt5 true) ∧ decodeTableWord 32 6 = none ∧ decodeTableWord 32 16 = none := by decide

/-- The very next step after placing a command's word issues it. -/
theorem test_withFetchWord :
    pendOf (step (State.reset.withFetchWord 32 0x8)) = some .raw4 ∧
    pendOf (step (State.reset.withFetchWord 32 0xD)) = some (.dxt5 true) := by decide

/-! ### Arithmetic: V1 to V23 -/

/-- V1 to V4. -/
theorem test_expand5 : [1, 15, 16, 20].map (expand · 5 8) = [8, 123, 132, 164] := by decide
/-- V5 to V7. -/
theorem test_expand6 : [1, 32, 53].map (expand · 6 8) = [4, 130, 214] := by decide
/-- V8 to V10 and S2's corrected row. -/
theorem test_expand4 : [1, 8, 9, 15].map (expand · 4 8) = [17, 136, 152, 254] := by decide
/-- V16. -/
theorem test_unpack565 : unpack565 0xA21A = ⟨164, 65, 214⟩ := by decide
/-- V19. -/
theorem test_palette4 : palette4 0xF800 0x001F = #v[0xFF0000FF, 0xFFFF0000, 0xFF5500AA, 0xFFAA0055] := by decide
/-- V22: a truncating average. -/
theorem test_palette3T : palette3T 0x0000 0xFFFF = #v[0xFF000000, 0xFFFFFFFF, 0xFF7F7F7F, 0x00000000] := by decide
/-- 95_test_vectors.md section 2.6. -/
theorem test_alphaPalette8 : alphaPalette 200 100 = #v[200, 100, 185, 171, 157, 142, 128, 114] := by decide
/-- Section 2.6, equal endpoints. -/
theorem test_alphaPalette6 : alphaPalette 128 128 = #v[128, 128, 128, 128, 128, 128, 0, 255] := by decide

/-! ### One completion of each command -/

/-- `n` copies of each word of a list, in order. -/
def each (n : Nat) (ws : List Word) : List Word := ws.flatMap (List.replicate n)

/-- V24. -/
theorem test_dxt1_punch_through :
    outOf (exec (.dxt1 false) (inFlight (.dxt1 false) (half 0x12341234 0xE4E4E4E4) 0)) =
      some ((List.replicate 4 [0xFFA44510, 0xFFA44510, 0xFFA44510, 0x00000000]).flatten) := by decide +kernel
/-- V27. -/
theorem test_dxt1_four_colors :
    outOf (exec (.dxt1 true) (inFlight (.dxt1 true) (half 0x07E0F800 0x00FFAA55) 0)) =
      some (each 4 [0xFF00FF00, 0xFF0055AA, 0xFF00AA55, 0xFF0000FF]) := by decide +kernel
/-- V32, as `DXT2` (R92). -/
theorem test_dxt2 :
    outOf (exec (.dxt2 false) (inFlight (.dxt2 false) (full 0 0 0x07E0F800 0x00FFAA55) 0)) =
      some (each 4 [0x0000FF00, 0x000055AA, 0x0000AA55, 0x000000FF]) := by decide +kernel
/-- V30. -/
theorem test_dxt3 :
    outOf (exec (.dxt3 false) (inFlight (.dxt3 false) v30 0)) =
      some ([0x00AAAAAA, 0x11AAAAAA, 0x22AAAAAA, 0x33AAAAAA, 0x44AAAAAA, 0x55AAAAAA, 0x66AAAAAA, 0x77AAAAAA] ++
        [0x88AAAAAA, 0x98AAAAAA, 0xA9AAAAAA, 0xBAAAAAAA, 0xCBAAAAAA, 0xDCAAAAAA, 0xEDAAAAAA, 0xFEAAAAAA]) := by
  decide +kernel
/-- V37, as `DXT4` (R100): an index field split over two bytes. -/
theorem test_dxt4 :
    outOf (exec (.dxt4 false) (inFlight (.dxt4 false) (full 0x800000FF 0x00000003 0x0000FFFF 0) 0)) =
      some (List.replicate 5 0xFFFFFFFF ++ [0x24FFFFFF] ++ List.replicate 10 0xFFFFFFFF) := by decide +kernel
/-- V33. -/
theorem test_dxt5_eight_values :
    outOf (exec (.dxt5 false) (inFlight (.dxt5 false) (full 0xC68800FF 0xFAC688FA 0x0000FFFF 0) 0)) =
      some ((List.replicate 2 [0xFFFFFFFF, 0x00FFFFFF, 0xDAFFFFFF, 0xB6FFFFFF, 0x91FFFFFF, 0x6DFFFFFF, 0x48FFFFFF,
        0x24FFFFFF]).flatten) := by decide +kernel
/-- V34. -/
theorem test_dxt5_six_values :
    outOf (exec (.dxt5 true) (inFlight (.dxt5 true) (full 0xC688FF00 0xFAC688FA 0x0000FFFF 0) 0)) =
      some ((List.replicate 2 [0x00FFFFFF, 0xFFFFFFFF, 0x33FFFFFF, 0x66FFFFFF, 0x99FFFFFF, 0xCCFFFFFF, 0x00FFFFFF,
        0xFFFFFFFF]).flatten) := by decide +kernel
/-- V39: byte 3 is ignored, alpha is 255, the other words keep their values. -/
theorem test_raw3 :
    outOf (exec .raw3 { completed with pend := some ⟨.raw3, half 0x771E140A 0, 0⟩ }) =
      some (0xFF0A141E :: List.replicate 15 0x00AAAAAA) := by decide +kernel
/-- V43. -/
theorem test_raw4 :
    outOf (exec .raw4 { completed with pend := some ⟨.raw4, half 0x11223344 0, 0⟩ }) =
      some (0x11443322 :: List.replicate 15 0x00AAAAAA) := by decide +kernel

/-! ### Status, error and protocol vectors -/

/-- V44. -/
theorem test_unsupported_sets_err : statusOf (hostEvent (.wr 0x10 4 0x6) completed) = some 4 := by decide
/-- V46. -/
theorem test_reserved_before_unsupported :
    faultOf (hostEvent (.wr 0x10 4 0x16) loaded) = some .reservedCommand := by decide
/-- V47: 1 in flight, then 2. -/
theorem test_status_busy_then_done :
    statusOf (hostEvent (.wr 0x10 4 0x9) loaded) = some 1 ∧
    statusOf (exec (.dxt1 true) (inFlight (.dxt1 true) v30 0)) = some 2 := by decide
/-- V48. -/
theorem test_issue_clears_err : statusOf (hostEvent (.wr 0x10 4 0x1) rejected) = some 1 := by decide
/-- V49, V50, V51, V52, V53. -/
theorem test_access_violations :
    faultOf (hostEvent (.wr 0x14 4 0) loaded) = some .writeReadOnly ∧
    faultOf (hostEvent (.wr 0x40 4 0) loaded) = some .writeReadOnly ∧
    faultOf (hostEvent (.rd 0x18 4) loaded) = some .reservedOffset ∧
    faultOf (hostEvent (.rd 0x14 2) loaded) = some .badAccess ∧
    faultOf (hostEvent (.rd 0x02 4) loaded) = some .badAccess := by decide
/-- V54, V55, V61. -/
theorem test_busy_violations :
    faultOf (hostEvent (.wr 0x00 4 5) (inFlight .raw3 v30 1)) = some .writeWhileBusy ∧
    faultOf (hostEvent (.rd 0x40 4) (inFlight .raw3 v30 1)) = some .readWhileBusy ∧
    faultOf (hostEvent (.wr 0x14 4 0) (inFlight .raw3 v30 1)) = some .writeReadOnly := by decide
/-- V56, V60. -/
theorem test_reads :
    readOf (hostEvent (.rd 0x00 4) (inFlight .raw3 v30 1)) = some 0x76543210 ∧
    readOf (hostEvent (.rd 0x14 4) State.reset) = some 0 := by decide
/-- V57. -/
theorem test_read_unwritten : faultOf (hostEvent (.rd 0x44 4) State.reset) = some .readUnwritten := by decide
/-- V58, V59. -/
theorem test_unwritten_operand :
    faultOf (exec (.dxt3 false) (inFlight (.dxt3 false) (half 1 2) 0)) = some .unwrittenOperand ∧
    goesOn (exec (.dxt1 false) (inFlight (.dxt1 false) (half 1 2) 0)) = true := by decide
/-- Program P3, steps 5 to 8: `OUT` and the rejected word are still readable. -/
theorem test_after_rejection :
    readOf (hostEvent (.rd 0x40 4) rejected) = some 0x00AAAAAA ∧ readOf (hostEvent (.rd 0x10 4) rejected) = some 6 := by
  decide

/-! ### Witnesses: states and operands that meet the hypotheses of each obligation, clause by clause -/

/-- A state about to do statement `a`. -/
def about (s : State) (a : HostStmt) : State := { s with todo := [a] }

/-- The invariant holds of a busy state. -/
theorem inFlight_inv : (inFlight .raw4 v30 0).Inv where
  busy_flags _ := ⟨rfl, rfl⟩
  done_err := by decide
  pend_cmd p h := by cases h; rfl
  pend_snap p h := by cases h; rfl
  cmd_unwritten h := by cases h
  cmd_not_reserved _ := by decide
  cmd_unsupported _ v h := by revert v; decide
  cmd_command _ j _ := ⟨rfl, .inl rfl⟩
  done_out h := by cases h
  out_marks := by decide

/-- The invariant holds of a state in which a block command is done. -/
theorem completed_inv : completed.Inv where
  busy_flags h := by cases h
  done_err := by decide
  pend_cmd p h := by cases h
  pend_snap p h := by cases h
  cmd_unwritten h := by cases h
  cmd_not_reserved _ := by decide
  cmd_unsupported _ v h := by revert v; decide
  cmd_command _ j _ := ⟨rfl, .inr rfl⟩
  done_out _ := ⟨by decide, fun _ _ _ _ => by decide⟩
  out_marks j _ _ := by decide

/-- Every clause, at the edges of `VARIANT` and `ALPHA` and of the reserved bits. -/
theorem witness_DecodeOfEveryWord :
    16 ≤ (0x10 : Word).toNat ∧ 16 ≤ (0xFFFFFFFF : Word).toNat ∧
    ([0x0, 0x8, 0x9, 0xA, 0xB, 0xC, 0xD, 0x6, 0xF] : List Word).all (fun w => w.toNat < 16) = true ∧
    ([0x0, 0x8, 0x9, 0xA, 0xB, 0xC, 0xD, 0x6, 0xF] : List Word).map (fun w => w.toNat % 8) =
      [0, 0, 1, 2, 3, 4, 5, 6, 7] ∧
    (0x0 : Word).toNat / 8 = 0 ∧ (0x8 : Word).toNat / 8 = 1 := by decide

theorem witness_UnsupportedWordsRaiseError : decode 0x0F = .unsupported 7 ∧ loaded.pend = none := by decide

theorem witness_AlphaBitIgnoredByDxt :
    Instr.dxt4 ∈ [Instr.dxt1, .dxt2, .dxt3, .dxt4, .dxt5] ∧ decode 0x4 = .command (.dxt4 false) ∧
    decode 0xC = .command (.dxt4 true) := by
  refine ⟨by simp, by decide, by decide⟩

theorem witness_ReservedWordFaults : 16 ≤ (0x10 : Word).toNat ∧ loaded.pend = none := by decide

theorem witness_WindowAtBase :
    (Config.base + 128 < Config.base ∨ Config.base + 128 ≤ Config.base + 128) := .inr (Nat.le_refl _)

/-- An odd width, an odd offset, and the first and last aligned words. -/
theorem witness_BadAccessFaults :
    (2 ≠ 4 ∨ (0x14 : Offset).toNat % 4 ≠ 0) ∧ (4 ≠ 4 ∨ (0x7F : Offset).toNat % 4 ≠ 0) ∧
    (0x00 : Offset).toNat % 4 = 0 ∧ (0x7C : Offset).toNat % 4 = 0 := by decide

theorem witness_ReservedOffsetFaults : ∀ off ∈ [(0x18 : Offset), 0x3C],
    0x18 ≤ off.toNat ∧ off.toNat ≤ 0x3C ∧ off.toNat % 4 = 0 := by decide

/-- Each violation is first somewhere, and each kind of access has none somewhere. -/
theorem witness_ViolationPriority :
    firstViolation (readViolations 0x18 2 loaded) = some .badAccess ∧
    firstViolation (readViolations 0x18 4 loaded) = some .reservedOffset ∧
    firstViolation (readViolations 0x3C 4 (inFlight .raw3 v30 1)) = some .reservedOffset ∧
    firstViolation (readViolations 0x40 4 (inFlight .raw3 v30 1)) = some .readWhileBusy ∧
    firstViolation (readViolations 0x40 4 loaded) = some .readUnwritten ∧
    firstViolation (readViolations 0x7C 4 completed) = none ∧
    firstViolation (writeViolations 0x16 4 0 loaded) = some .badAccess ∧
    firstViolation (writeViolations 0x3C 4 0 loaded) = some .reservedOffset ∧
    firstViolation (writeViolations 0x14 4 0 (inFlight .raw3 v30 1)) = some .writeReadOnly ∧
    firstViolation (writeViolations 0x10 4 0x16 (inFlight .raw3 v30 1)) = some .writeWhileBusy ∧
    firstViolation (writeViolations 0x10 4 0x16 loaded) = some .reservedCommand ∧
    firstViolation (writeViolations 0x10 4 0xF loaded) = none ∧ 6 ≤ (0xF : Word).toNat % 8 ∧
    firstViolation (writeViolations 0x0C 4 0xFFFFFFFF loaded) = none := by decide

theorem witness_IllFormedStatementsFault :
    (HostStmt.wr 0x10 4 0x10).wf = false ∧ (HostStmt.wr 0x10 4 0xF).wf = true ∧ HostStmt.reset.wf = true := by decide

theorem witness_InputWriteSeenAtOnce : loaded.busy = false ∧ State.reset.busy = false := by decide

theorem witness_WriteInput : loaded.busy = false ∧ (inFlight .raw3 v30 1).busy = true := by decide

theorem witness_ReadInput :
    (inFlight .raw3 v30 1).inReg[(3 : Fin 4)].written = true ∧ State.reset.inReg[(3 : Fin 4)].written = false := by decide

theorem witness_ReadCommand :
    completed.cmd.written = true ∧ State.reset.cmd.written = false ∧ ∃ t, hostEvent (.wr 0x10 4 0x6) loaded = .next t :=
  ⟨rfl, rfl, of_goesOn (by decide)⟩

theorem witness_ReadOutput :
    (inFlight .raw3 v30 1).busy = true ∧ loaded.busy = false ∧ loaded.out[(15 : Fin 16)].written = false ∧
    completed.busy = false ∧ completed.out[(15 : Fin 16)].written = true := by decide

theorem witness_ReadsHaveNoSideEffect : ∃ t, hostEvent (.rd 0x14 4) (inFlight .raw3 v30 1) = .next t :=
  of_goesOn (by decide)

/-- Its three clauses. -/
theorem witness_IssueOfCommand :
    decode 0xD = .command (.dxt5 true) ∧ loaded.busy = false ∧ (inFlight .raw3 v30 1).busy = true ∧
    16 ≤ (0x10 : Word).toNat := by decide

theorem witness_IssueOfUnsupportedVariant :
    (0xE : Word).toNat < 16 ∧ 6 ≤ (0xE : Word).toNat % 8 ∧ completed.busy = false := by decide

/-- A command word, a reset and a second unsupported word, each met while `ERR` is 1. -/
theorem witness_ErrorStaysUntilNextCommand :
    rejected.err = true ∧ (∃ t, step (about rejected (.wr 0x10 4 1)) = .next t ∧ t.err = false) ∧
    (∃ t, step (about rejected .reset) = .next t ∧ t.err = false) ∧
    (∃ t, step (about rejected (.wr 0x10 4 7)) = .next t) ∧ HostNext (about rejected (.wr 0x10 4 7)) (.wr 0x10 4 7) ∧
    decode 7 = .unsupported 7 :=
  ⟨rfl, ⟨_, rfl, rfl⟩, ⟨_, rfl, rfl⟩, ⟨_, rfl⟩, ⟨nofun, rfl⟩, by decide⟩

theorem witness_StepRunsCommandWord :
    loaded.pend = none ∧ (about loaded (.wr 0x10 4 3)).todo = .wr 0x10 4 3 :: [] ∧ decode 3 = .command (.dxt3 false) := by
  decide

theorem witness_StepCompletesPending : (inFlight .raw4 v30 0).pend = some ⟨.raw4, v30, 0⟩ := by decide

/-- Its four clauses. -/
theorem witness_StepTakesHostTurn :
    (about loaded .wait).pend = none ∧ (about loaded .wait).todo = .wait :: [] ∧ State.reset.pend = none ∧
    State.reset.todo = [] ∧ (about (inFlight .raw4 v30 1) .wait).pend = some ⟨.raw4, v30, 0 + 1⟩ ∧
    (about (inFlight .raw4 v30 1) .wait).todo = .wait :: [] ∧ (inFlight .raw4 v30 1).todo = [] := by decide

/-- Busy and not busy. -/
theorem witness_WaitPollsStatus :
    (inFlight .raw4 v30 1).statusWord.toNat % 2 = 1 ∧ completed.statusWord.toNat % 2 = 0 := by decide

/-- Both clauses. -/
theorem witness_Dxt1Completes :
    (inFlight (.dxt1 true) v30 0).pend = some ⟨.dxt1 true, v30, 0⟩ ∧ v30[0].written = true ∧ v30[1].written = true ∧
    (half 1 2)[0].written = true ∧ (half 1 2)[1].written = true ∧
    ¬((State.reset.inReg)[0].written = true ∧ (State.reset.inReg)[1].written = true) := by decide

/-- Both clauses. -/
theorem witness_Dxt2Completes :
    (inFlight (.dxt2 false) v30 0).pend = some ⟨.dxt2 false, v30, 0⟩ ∧ (∀ k : Fin 4, v30[k].written = true) ∧
    (inFlight (.dxt2 false) (half 1 2) 0).pend = some ⟨.dxt2 false, half 1 2, 0⟩ ∧
    ¬(∀ k : Fin 4, (half 1 2)[k].written = true) := by decide

/-- Both clauses. -/
theorem witness_Dxt3Completes :
    (inFlight (.dxt3 true) v30 0).pend = some ⟨.dxt3 true, v30, 0⟩ ∧ (∀ k : Fin 4, v30[k].written = true) ∧
    (inFlight (.dxt3 true) (half 1 2) 0).pend = some ⟨.dxt3 true, half 1 2, 0⟩ ∧
    ¬(∀ k : Fin 4, (half 1 2)[k].written = true) := by decide

/-- Both clauses. -/
theorem witness_Dxt4Completes :
    (inFlight (.dxt4 false) v30 0).pend = some ⟨.dxt4 false, v30, 0⟩ ∧ (∀ k : Fin 4, v30[k].written = true) ∧
    (inFlight (.dxt4 false) (half 1 2) 0).pend = some ⟨.dxt4 false, half 1 2, 0⟩ ∧
    ¬(∀ k : Fin 4, (half 1 2)[k].written = true) := by decide

/-- Both clauses. -/
theorem witness_Dxt5Completes :
    (inFlight (.dxt5 true) v30 0).pend = some ⟨.dxt5 true, v30, 0⟩ ∧ (∀ k : Fin 4, v30[k].written = true) ∧
    (inFlight (.dxt5 true) (half 1 2) 0).pend = some ⟨.dxt5 true, half 1 2, 0⟩ ∧
    ¬(∀ k : Fin 4, (half 1 2)[k].written = true) := by decide

/-- Both clauses. -/
theorem witness_Raw3Completes :
    (inFlight .raw3 v30 0).pend = some ⟨.raw3, v30, 0⟩ ∧ v30[0].written = true ∧
    (inFlight .raw3 State.reset.inReg 0).pend = some ⟨.raw3, State.reset.inReg, 0⟩ ∧
    State.reset.inReg[0].written = false := by decide

/-- Both clauses. -/
theorem witness_Raw4Completes :
    (inFlight .raw4 v30 0).pend = some ⟨.raw4, v30, 0⟩ ∧ v30[0].written = true ∧
    (inFlight .raw4 State.reset.inReg 0).pend = some ⟨.raw4, State.reset.inReg, 0⟩ ∧
    State.reset.inReg[0].written = false := by decide

theorem witness_BlockTileReadable :
    Instr.dxt1 true ≠ .raw3 ∧ Instr.dxt1 true ≠ .raw4 ∧ (inFlight (.dxt1 true) v30 0).busy = true ∧
    ∃ t, exec (.dxt1 true) (inFlight (.dxt1 true) v30 0) = .next t :=
  ⟨by decide, by decide, rfl, of_goesOn (by decide)⟩

/-- With the other words written before, and not. -/
theorem witness_TexelCommandKeepsOtherWords :
    (∃ t, exec .raw3 { completed with pend := some ⟨.raw3, v30, 0⟩ } = .next t) ∧
    completed.out[(15 : Fin 16)].written = true ∧ (∃ t, exec .raw4 (inFlight .raw4 v30 0) = .next t) ∧
    (inFlight .raw4 v30 0).busy = true ∧ (inFlight .raw4 v30 0).out[(1 : Fin 16)].written = false :=
  ⟨of_goesOn (by decide), by decide, of_goesOn (by decide), rfl, by decide⟩

/-- The three clauses: V27; V24 at an index 3 and at an index 0, with equal endpoints. -/
theorem witness_Dxt1AlphaIsOneBit :
    end1 (half 0x07E0F800 0x00FFAA55) 0 < end0 (half 0x07E0F800 0x00FFAA55) 0 ∧
    end0 (half 0x12341234 0xE4E4E4E4) 0 ≤ end1 (half 0x12341234 0xE4E4E4E4) 0 ∧
    cidx (half 0x12341234 0xE4E4E4E4) 0 3 = 3 ∧ cidx (half 0x12341234 0xE4E4E4E4) 0 0 ≠ 3 ∧
    (∃ t, exec (.dxt1 false) (inFlight (.dxt1 false) (half 0x07E0F800 0x00FFAA55) 0) = .next t) ∧
    (∃ t, exec (.dxt1 false) (inFlight (.dxt1 false) (half 0x12341234 0xE4E4E4E4) 0) = .next t) :=
  ⟨by decide, by decide, by decide, by decide, of_goesOn (by decide), of_goesOn (by decide)⟩

theorem witness_ExplicitAlphaNeverOpaque :
    (inFlight (.dxt2 false) v30 0).busy = true ∧ ∃ t, exec (.dxt2 false) (inFlight (.dxt2 false) v30 0) = .next t :=
  ⟨rfl, of_goesOn (by decide)⟩

/-- Two blocks that agree in a nibble (texel 0) and not in the colours, and two that agree in the colours only. -/
theorem witness_ExplicitLanesIndependent :
    (∃ t, exec (.dxt3 true) (inFlight (.dxt3 true) v30 0) = .next t) ∧
    (∃ t, exec (.dxt3 true) (inFlight (.dxt3 true) (full 0 0 1 0) 0) = .next t) ∧
    (∃ t, exec (.dxt3 true) (inFlight (.dxt3 true) (full 0xF 0 0xFFFF0000 0xFFFFFFFF) 0) = .next t) ∧
    nibble v30 0 = nibble (full 0 0 1 0) 0 ∧ nibble v30 0 ≠ nibble (full 0xF 0 0xFFFF0000 0xFFFFFFFF) 0 ∧
    end0 v30 8 = end0 (full 0xF 0 0xFFFF0000 0xFFFFFFFF) 8 ∧ end1 v30 8 = end1 (full 0xF 0 0xFFFF0000 0xFFFFFFFF) 8 ∧
    cidx v30 8 0 = cidx (full 0xF 0 0xFFFF0000 0xFFFFFFFF) 8 0 :=
  ⟨of_goesOn (by decide), of_goesOn (by decide), of_goesOn (by decide), by decide, by decide, by decide, by decide,
    by decide⟩

/-- Its first two clauses have the states of `witness_Dxt1AlphaIsOneBit`; this is the third. -/
theorem witness_PaletteChoice :
    (inFlight (.dxt5 false) v30 0).pend = some ⟨.dxt5 false, v30, 0⟩ ∧
    ∃ t, exec (.dxt5 false) (inFlight (.dxt5 false) v30 0) = .next t := ⟨by decide, of_goesOn (by decide)⟩

/-- Both sides occur: the last word missing, and none missing. -/
theorem witness_CompletionFaultsOnUnwrittenOperand :
    (inFlight (.dxt5 false) (half 1 2) 0).pend = some ⟨.dxt5 false, half 1 2, 0⟩ ∧
    (4 * (3 : Fin 4).val < unitLength (.dxt5 false) ∧ (half 1 2)[(3 : Fin 4)].written = false) ∧
    goesOn (exec (.dxt5 false) (inFlight (.dxt5 false) v30 0)) = true := by decide

/-- Two different registers that agree on the bytes `DXT1` reads. -/
theorem witness_BytesBeyondUnitIgnored :
    half 1 2 ≠ full 1 2 3 4 ∧ ∀ b < unitLength (.dxt1 true), byteAt (half 1 2) b = byteAt (full 1 2 3 4) b ∧
      ∀ k : Fin 4, k.val = b / 4 → (half 1 2)[k].written = (full 1 2 3 4)[k].written := by decide

/-- A live `IN` that differs from the snapshot. -/
theorem witness_CompletionIgnoresLiveInput :
    v30 ≠ half 1 2 ∧ (inFlight .raw3 v30 0).pend = some ⟨.raw3, v30, 0⟩ ∧
    ∃ t, exec .raw3 (inFlight .raw3 v30 0) = .next t := ⟨by decide, by decide, of_goesOn (by decide)⟩

theorem witness_WeightedMeanExact : 0 < 0 + 1 ∧ 0 < 6 + 1 := by decide

/-- Both reasons for the bounds, and the index 6 of the six-value palette that has none. -/
theorem witness_InterpolatedAlphaSelected :
    (inFlight (.dxt4 true) (full 0xC68800FF 0xFAC688FA 0 0) 0).pend =
      some ⟨.dxt4 true, full 0xC68800FF 0xFAC688FA 0 0, 0⟩ ∧
    byteAt (full 0xC68800FF 0xFAC688FA 0 0) 1 < byteAt (full 0xC68800FF 0xFAC688FA 0 0) 0 ∧
    aidx (full 0xC6888080 0xFAC688FA 0 0) 5 < 6 ∧ aidx (full 0xC6888080 0xFAC688FA 0 0) 6 = 6 ∧
    goesOn (exec (.dxt4 true) (inFlight (.dxt4 true) (full 0xC6888080 0xFAC688FA 0 0) 0)) = true := by decide

/-- The all-zero block, and a field at the top of its width. -/
theorem witness_ColorCornerCases :
    (inFlight (.dxt1 true) (half 0 0) 0).pend = some ⟨.dxt1 true, half 0 0, 0⟩ ∧ (∀ b < 8, byteAt (half 0 0) b = 0) ∧
    goesOn (exec (.dxt1 true) (inFlight (.dxt1 true) (half 0 0) 0)) = true ∧ 6 ∈ [4, 5, 6] ∧ 63 < 2 ^ 6 ∧
    expand 63 6 8 = expand 63 6 8 := by decide

/-- A step that starts a command. -/
theorem witness_ResetValues :
    loaded.pend = none ∧ ∃ t, step (about loaded (.wr 0x10 4 0)) = .next t ∧ t.pend ≠ none :=
  ⟨rfl, _, rfl, by simp [State.issue]⟩

theorem witness_ResetAbandonsPending :
    (inFlight .raw3 v30 0).busy = true ∧ ∃ t, hostEvent .reset (inFlight .raw3 v30 0) = .next t := ⟨rfl, _, rfl⟩

theorem witness_ReadyAfterReset : (∃ t, hostEvent .reset completed = .next t) ∧ (0xF : Word).toNat < 16 :=
  ⟨⟨_, rfl⟩, by decide⟩

theorem witness_ExpandWidths : 4 ∈ [4, 5, 6] ∧ 15 < 2 ^ 4 ∧ 6 ∈ [4, 5, 6] ∧ 63 < 2 ^ 6 ∧ 1 ≤ 1 := by decide

/-- A step that sets `BUSY`, the two that clear it. -/
theorem witness_BusyChanges :
    HostNext (about loaded (.wr 0x10 4 0)) (.wr 0x10 4 0) ∧
    (∃ t, step (about loaded (.wr 0x10 4 0)) = .next t ∧ t.busy = true) ∧ Completes (inFlight .raw3 v30 0) ∧
    (∃ t, step (inFlight .raw3 v30 0) = .next t ∧ t.busy = false) ∧
    HostNext (about (inFlight .raw3 v30 1) .reset) .reset ∧
    (∃ t, step (about (inFlight .raw3 v30 1) .reset) = .next t ∧ t.busy = false) :=
  ⟨⟨nofun, rfl⟩, ⟨_, rfl, rfl⟩, ⟨_, rfl, rfl⟩, ⟨_, rfl, rfl⟩,
    ⟨fun p h => by cases h; decide, rfl⟩, ⟨_, rfl, rfl⟩⟩

/-- A step that changes each register: `IN`; `CMD`, `DONE`, `BUSY`; `OUT`; `ERR`; and one with a command in flight before
and after. -/
theorem witness_RegistersChangeOnlyByTheirWriters :
    (∃ t, step (about loaded (.wr 0x0C 4 9)) = .next t ∧ t.inReg ≠ loaded.inReg) ∧
    (∃ t, step (about completed (.wr 0x10 4 6)) = .next t ∧ t.cmd ≠ completed.cmd ∧ t.done ≠ completed.done ∧
      t.err ≠ completed.err) ∧
    (∃ t, step (inFlight .raw3 v30 0) = .next t ∧ t.out ≠ (inFlight .raw3 v30 0).out ∧
      t.busy ≠ (inFlight .raw3 v30 0).busy) ∧
    (∃ t q, step (inFlight .raw3 v30 1) = .next t ∧ t.pend = some q) ∧
    ¬HostNext (about loaded (.wr 0x0C 4 9)) .reset ∧ ¬HostNext (inFlight .raw3 v30 0) .reset :=
  ⟨⟨_, rfl, by decide⟩, ⟨_, rfl, by decide, by decide, by decide⟩, ⟨_, rfl, by decide, by decide⟩, ⟨_, _, rfl, rfl⟩,
    fun h => absurd h.2 (by decide), fun h => absurd h.2 (by decide)⟩

theorem witness_StepKeepsInv : (inFlight .raw4 v30 0).Inv ∧ ∃ t, step (inFlight .raw4 v30 0) = .next t :=
  ⟨inFlight_inv, _, rfl⟩

theorem witness_CompletionVisible :
    completed.Inv ∧ completed.cmd.written = true ∧ decode completed.cmd.val = .command (.dxt3 false) ∧
    ∃ t, hostEvent (.rd 0x14 4) completed = .next t ∧ t.reads.head? = some ⟨0x14, 2⟩ ∧ (2 : Word).toNat % 2 = 0 ∧
      Instr.dxt3 false ≠ .raw3 ∧ Instr.dxt3 false ≠ .raw4 :=
  ⟨completed_inv, rfl, by decide, _, rfl, by decide, by decide, by decide, by decide⟩

theorem witness_WaitEnds :
    (about (inFlight .raw3 v30 7) .wait).pend = some ⟨.raw3, v30, 7⟩ ∧
    (about (inFlight .raw3 v30 7) .wait).todo = .wait :: [] ∧ operandsWritten .raw3 v30 = true := by decide

theorem witness_LatencyDoesNotMatter :
    (inFlight .raw3 v30 7).todo = [] ∧ (inFlight .raw3 v30 7).pend = some ⟨.raw3, v30, 7⟩ := by decide

theorem witness_IssueThenWaitGivesResult :
    loaded.pend = none ∧ decode 0x5 = .command (.dxt5 false) ∧
    ({ loaded with todo := [.wr 0x10 4 0x5, .wait] } : State).todo = .wr 0x10 4 0x5 :: .wait :: [] ∧
    operandsWritten (.dxt5 false) loaded.inReg = true := by decide

/-- Two different states that agree where written, and a step and a fault from such states. -/
theorem witness_UnwrittenValuesUnobservable :
    State.SameWritten { State.reset with cmd := ⟨5, false⟩ } State.reset ∧
    (∃ t, step { State.reset with cmd := ⟨5, false⟩ } = .next t) ∧
    step (about { State.reset with cmd := ⟨5, false⟩ } (.rd 0x10 4)) = .fault .readUnwritten where
  left := ⟨fun _ => ⟨rfl, fun _ => rfl⟩, ⟨rfl, nofun⟩, rfl, rfl, fun _ => ⟨rfl, fun _ => rfl⟩, trivial, rfl, rfl, rfl⟩
  right := ⟨⟨_, rfl⟩, rfl⟩

end Sys2Proof.Tests
end

section
/-! PROOFS. The `CMD` write on each kind of word (10_state.md R22, R23, R55), and what changes `BUSY` (R15). -/

namespace Sys2Proof

/-- A command's word is the encoding of that command: `CMD` keeps the word written, `ALPHA` included (R11, R53). -/
theorem eq_encode_of_decode {w : Word} {i : Instr} (h : decode w = .command i) : w = encode i := by
  have key : ∀ n : Fin 16, (match decode (BitVec.ofNat 32 n.val) with
      | .command j => BitVec.ofNat 32 n.val == encode j
      | _ => true) = true := by decide
  have hne : decode w ≠ .reserved := by simp [h]
  obtain ⟨n, rfl⟩ := lt_of_decode hne
  have hn := key n
  rw [h] at hn
  exact eq_of_beq hn

/-- Variants 6 and 7 are the unsupported ones (R56, R68). -/
theorem decode_unsupported {w : Word} (h : w.toNat < 16) (hv : 6 ≤ w.toNat % 8) :
    decode w = .unsupported (wordVariant w) := by
  have key : ∀ n : Fin 16, 6 ≤ n.val % 8 →
      decode (BitVec.ofNat 32 n.val) = .unsupported (wordVariant (BitVec.ofNat 32 n.val)) := by decide
  have hw : w = BitVec.ofNat 32 w.toNat := by simp
  rw [hw]
  exact key ⟨w.toNat, h⟩ hv

end Sys2Proof

namespace Sys2Proof.Machine

open Sys2Proof.Claims

/-! ### The `CMD` write, by what its word decodes to -/

theorem hostEvent_write_cmd_busy {s : State} (w : Word) (hb : s.busy = true) :
    hostEvent (.wr 0x10 4 w) s = .fault .writeWhileBusy := by
  rw [hostEvent_write_cmd, if_pos hb]

theorem hostEvent_write_cmd_not_busy {s : State} (w : Word) (hb : s.busy = false) :
    hostEvent (.wr 0x10 4 w) s = writeCommand w s := by
  rw [hostEvent_write_cmd, if_neg (by simp [hb])]

theorem writeCommand_command {w : Word} {i : Instr} (hd : decode w = .command i) (s : State) :
    writeCommand w s = exec i s := by
  simp only [writeCommand, hd]

theorem writeCommand_unsupported {w : Word} {v : BitVec 3} (hd : decode w = .unsupported v) (s : State) :
    writeCommand w s = .next (s.raiseUnsupported w) := by
  simp only [writeCommand, hd]

theorem writeCommand_reserved {w : Word} (hd : decode w = .reserved) (s : State) :
    writeCommand w s = .fault .reservedCommand := by
  simp only [writeCommand, hd]

/-! ### `BUSY` over one event -/

/-- `STATUS[0]` as a number is `BUSY`. -/
theorem statusWord_mod_two (s : State) : s.statusWord.toNat % 2 = 1 ↔ s.busy = true := by
  have hbit : decide (s.statusWord.toNat % 2 = 1) = s.busy := by
    rw [← Nat.testBit_zero, ← statusWord_bit0]
    rfl
  rw [← hbit, decide_eq_true_iff]

theorem turn_ne_completion_of_none {s : State} (h : s.pend = none) (op : Instr) : s.turn ≠ .completion op := by
  simp [turn_completion, h]

/-- Of the host's events only the issue of a command and a reset change `BUSY`. -/
theorem hostEvent_busy_cases {a : HostStmt} {s t : State} (h : hostEvent a s = .next t) :
    t.busy = s.busy ∨ (∃ w i, a = .wr 0x10 4 w ∧ decode w = .command i ∧ t = s.issue i) ∨
      (a = .reset ∧ t = s.assertReset) := by
  rcases hostEvent_cases h with ⟨_, _, _, -, -, rfl⟩ | ⟨_, _, _, _, -, -, -, -, rfl⟩ |
    ⟨off, n, w, i, rfl, -, ha, hr, hd, rfl⟩ | ⟨_, _, _, _, -, -, -, -, -, rfl⟩ | ⟨-, -, rfl⟩ | ⟨-, -, rfl⟩ | ⟨rfl, rfl⟩
  case inr.inr.inl =>
    obtain ⟨rfl, rfl⟩ := off_of_cmd ha hr
    exact .inr (.inl ⟨w, i, rfl, hd, rfl⟩)
  case inr.inr.inr.inr.inr.inr => exact .inr (.inr ⟨rfl, rfl⟩)
  all_goals exact .inl rfl

/-- The step of a host turn is the event of the host's next statement. -/
theorem step_of_hostNext {s : State} {a : HostStmt} (h : HostNext s a) : ∃ rest, step s = hostEvent a (s.takeStmt rest) := by
  obtain ⟨hwait, hhead⟩ := h
  obtain ⟨rest, hr⟩ := List.head?_eq_some_iff.mp hhead
  exact ⟨rest, step_of_host hwait hr⟩

/-- Every step completes a command, issues one, resets, or leaves `BUSY` as it was. -/
theorem step_busy_cases {s t : State} (h : step s = .next t) :
    (Completes s ∧ t.busy = false) ∨ (∃ w i, HostNext s (.wr 0x10 4 w) ∧ decode w = .command i ∧ t.busy = true) ∨
      (HostNext s .reset ∧ t.busy = false) ∨ t.busy = s.busy := by
  obtain ⟨p, hp, hw, -, rfl⟩ | ⟨a, rest, hwait, hr, ha⟩ | ⟨-, -, rfl⟩ := step_cases h
  · exact .inl ⟨⟨p, hp, hw⟩, rfl⟩
  · have hnext : HostNext s a := ⟨hwait, by rw [hr, List.head?_cons]⟩
    obtain hb | ⟨w, i, rfl, hd, rfl⟩ | ⟨rfl, rfl⟩ := hostEvent_busy_cases ha
    · exact .inr (.inr (.inr (hb.trans (takeStmt_busy s rest))))
    · exact .inr (.inl ⟨w, i, hnext, hd, rfl⟩)
    · exact .inr (.inr (.inl ⟨hnext, rfl⟩))
  · exact .inr (.inr (.inr (tick_busy s)))

/-- Only the `CMD` write of a command's word starts a command. -/
theorem step_sets_busy {s t : State} (h : step s = .next t) (hs : s.busy = false) (ht : t.busy = true) :
    ∃ w i, HostNext s (.wr 0x10 4 w) ∧ decode w = .command i := by
  obtain ⟨-, hb⟩ | ⟨w, i, hnext, hd, -⟩ | ⟨-, hb⟩ | hb := step_busy_cases h
  · simp [hb] at ht
  · exact ⟨w, i, hnext, hd⟩
  · simp [hb] at ht
  · simp [hb, hs] at ht

/-- Only a completion and a reset end a command. -/
theorem step_clears_busy {s t : State} (h : step s = .next t) (hs : s.busy = true) (ht : t.busy = false) :
    Completes s ∨ HostNext s .reset := by
  obtain ⟨hc, -⟩ | ⟨_, _, -, -, hb⟩ | ⟨hr, -⟩ | hb := step_busy_cases h
  · exact .inl hc
  · simp [hb] at ht
  · exact .inr hr
  · simp [hb, hs] at ht

/-- A step that writes a command's word to `CMD` and goes on leaves the command in flight. -/
theorem step_write_command_busy {s t : State} {w : Word} {i : Instr} (h : step s = .next t)
    (hn : HostNext s (.wr 0x10 4 w)) (hd : decode w = .command i) : t.busy = true := by
  obtain ⟨rest, hs⟩ := step_of_hostNext hn
  rw [hs] at h
  cases hb : (s.takeStmt rest).busy with
  | true =>
    rw [hostEvent_write_cmd_busy w hb] at h
    cases h
  | false =>
    rw [hostEvent_write_cmd_not_busy w hb, writeCommand_command hd, exec_of_none (busy_eq_false.mp hb)] at h
    cases h
    rfl

/-- A completion that goes on leaves nothing in flight. -/
theorem step_completes_busy {s t : State} (h : step s = .next t) (hc : Completes s) : t.busy = false := by
  obtain ⟨p, hp, hw⟩ := hc
  obtain ⟨_, -, -, -, rfl⟩ | ⟨_, _, hwait, -, -⟩ | ⟨hwait, -, -⟩ := step_cases h
  · rfl
  · exact absurd hw (hwait p hp)
  · exact absurd hw (hwait p hp)

/-- A reset leaves nothing in flight. -/
theorem step_reset_busy {s t : State} (h : step s = .next t) (hn : HostNext s .reset) : t.busy = false := by
  obtain ⟨rest, hs⟩ := step_of_hostNext hn
  cases hs.symm.trans h
  rfl

end Sys2Proof.Machine

namespace Sys2Proof.Proofs

open Sys2Proof.Machine Sys2Proof.Claims

/-- Settles O20: while not busy the write of a command's word is that command run where nothing is in flight. -/
theorem issueOfCommand : Obligations.IssueOfCommand := by
  refine ⟨fun w i s hd hb => ⟨?_, s.issue i, ⟨i, s.inReg, Config.latency s.issues⟩, ?_⟩,
    fun w s => hostEvent_write_cmd_busy w, fun w s hb hw => ?_⟩
  · rw [hostEvent_write_cmd_not_busy w hb, writeCommand_command hd]
  · simp [exec_of_none (busy_eq_false.mp hb), eq_encode_of_decode hd]
  · rw [hostEvent_write_cmd_not_busy w hb, writeCommand_reserved (decode_reserved hw)]

/-- Settles O21: such a word decodes to the architected error, whose write names no other register. -/
theorem issueOfUnsupportedVariant : Obligations.IssueOfUnsupportedVariant := by
  intro w s hw hv hb
  have hwrite : hostEvent (.wr 0x10 4 w) s = .next (s.raiseUnsupported w) := by
    rw [hostEvent_write_cmd_not_busy w hb, writeCommand_unsupported (decode_unsupported hw hv)]
  have hp : (s.raiseUnsupported w).pend = none := busy_eq_false.mp hb
  exact ⟨s.raiseUnsupported w, hwrite, rfl, rfl, hb, rfl, hp, turn_ne_completion_of_none hp, rfl, rfl, rfl, rfl, rfl⟩

/-- Settles O48: the reset state is a closed value; that only a `CMD` write starts a command is `step_sets_busy`. -/
theorem resetValues : Obligations.ResetValues := by
  refine ⟨rfl, rfl, rfl, rfl, rfl, rfl, by decide, by decide, fun s t hs h ht => ?_⟩
  have hbusy : t.busy = true := Option.isSome_iff_ne_none.mpr ht
  obtain ⟨w, i, ⟨-, hhead⟩, hd⟩ := step_sets_busy h (busy_eq_false.mpr hs) hbusy
  exact ⟨w, i, hhead, hd⟩

/-- Settles O52, one lemma for each event that sets or clears `BUSY` and one for each direction of change. -/
theorem busyChanges : Obligations.BusyChanges :=
  ⟨fun s => (statusWord_mod_two s).trans Option.isSome_iff_ne_none, fun _ _ h =>
    ⟨step_sets_busy h, step_clears_busy h, fun _ _ => step_write_command_busy h, step_completes_busy h,
      step_reset_busy h⟩⟩

end Sys2Proof.Proofs
end

section
/-! PROOFS. The register window (20_memory.md): refused accesses (R30, R37), and the reads and writes of `IN`, `CMD`,
`STATUS` and `OUT` (R32 to R38). -/

namespace Sys2Proof.Machine

open Sys2Proof.Claims

/-! ### The words of `IN` and their bytes (R31) -/

/-- Bytes `4k` to `4k + 3` of a 16-byte register lie in word `k`. -/
theorem byteAt_of_word (r : InReg) (k : Fin 4) {i : Nat} (hi : i < 4) :
    byteAt r (4 * k.val + i) = r[k].val.toNat / 256 ^ i % 256 := by
  have hmod : (4 * k.val + i) % 4 = i := by omega
  rw [byteAt, hmod]
  obtain ⟨k, hk⟩ := k
  dsimp only
  match k with
  | 0 => rw [if_pos (by omega)]; rfl
  | 1 => rw [if_neg (by omega), if_pos (by omega)]; rfl
  | 2 => rw [if_neg (by omega), if_neg (by omega), if_pos (by omega)]; rfl
  | 3 => rw [if_neg (by omega), if_neg (by omega), if_neg (by omega)]; rfl

/-- Word `k` of a 16-byte register is its four bytes, little-endian. -/
theorem word_toNat_eq_bytes (r : InReg) (k : Fin 4) :
    r[k].val.toNat = byteAt r (4 * k.val) + 256 * byteAt r (4 * k.val + 1) + 65536 * byteAt r (4 * k.val + 2) +
      16777216 * byteAt r (4 * k.val + 3) := by
  have hlt := r[k].val.isLt
  have h0 : byteAt r (4 * k.val) = r[k].val.toNat / 256 ^ 0 % 256 := byteAt_of_word r k (i := 0) (by decide)
  rw [h0, byteAt_of_word r k (i := 1) (by decide), byteAt_of_word r k (i := 2) (by decide),
    byteAt_of_word r k (i := 3) (by decide)]
  omega

/-- A write of `INk` writes and marks word `k`. -/
theorem writeIn_inReg_self (s : State) (k : Fin 4) (v : Word) : (s.writeIn k v).inReg[k] = ⟨v, true⟩ := by simp

/-- A write of `INk` keeps every other word of `IN`. -/
theorem writeIn_inReg_other (s : State) {k l : Fin 4} (v : Word) (h : l ≠ k) :
    (s.writeIn k v).inReg[l] = s.inReg[l] := by
  have hne : k.val ≠ l.val := fun e => h (Fin.ext e.symm)
  simp [hne]

/-! ### Which accesses fault with what -/

theorem logRead_onlyRead (s : State) (off : Offset) (v : Word) : OnlyRead s (s.logRead off v) off v :=
  ⟨rfl, rfl, rfl, rfl, rfl, rfl, rfl, rfl, rfl⟩

theorem hostEvent_read_eq_fault {off : Offset} {n : Nat} {s : State} {f : Fault} :
    hostEvent (.rd off n) s = .fault f ↔ readAccess off n s = .error f := by
  rw [hostEvent, hostRead]
  cases readAccess off n s <;> simp

theorem hostEvent_write_not_aligned {off : Offset} {n : Nat} (h : aligned off n = false) (v : Word) (s : State) :
    hostEvent (.wr off n v) s = .fault .badAccess := by
  simp only [hostEvent, hostWrite, h, Bool.false_eq_true, if_false]

theorem hostEvent_read_not_aligned {off : Offset} {n : Nat} (h : aligned off n = false) (s : State) :
    hostEvent (.rd off n) s = .fault .badAccess := by
  simp only [hostEvent_read_eq_fault, readAccess, h, Bool.false_eq_true, if_false]

theorem hostEvent_read_reserved {off : Offset} {n : Nat} (ha : aligned off n = true) (hr : windowReg off = .reserved)
    (s : State) : hostEvent (.rd off n) s = .fault .reservedOffset := by
  simp only [hostEvent_read_eq_fault, readAccess, ha, hr, if_true]

theorem hostEvent_write_reserved {off : Offset} {n : Nat} (ha : aligned off n = true) (hr : windowReg off = .reserved)
    (v : Word) (s : State) : hostEvent (.wr off n v) s = .fault .reservedOffset := by
  simp only [hostEvent, hostWrite, ha, hr, if_true]

/-- Reading a register word can only fault for its mark. -/
theorem RegWord.read_ne_badAccess (r : RegWord) : r.read ≠ .error .badAccess := by
  rw [RegWord.read]
  cases r.written <;> simp

/-- A `CMD` write while not busy can only fault for a reserved word. -/
theorem writeCommand_ne_badAccess {s : State} (w : Word) (hb : s.busy = false) :
    writeCommand w s ≠ .fault .badAccess := by
  cases hd : decode w with
  | command i => simp [writeCommand_command hd, exec_of_none (busy_eq_false.mp hb)]
  | unsupported v => simp [writeCommand_unsupported hd]
  | reserved => simp [writeCommand_reserved hd]

/-- No register of the window answers an aligned read with `BadAccess`. -/
theorem hostEvent_read_aligned_ne_badAccess {off : Offset} {n : Nat} (ha : aligned off n = true) (s : State) :
    hostEvent (.rd off n) s ≠ .fault .badAccess := by
  rw [ne_eq, hostEvent_read_eq_fault, readAccess, if_pos ha]
  cases windowReg off with
  | input k => exact RegWord.read_ne_badAccess _
  | cmd => exact RegWord.read_ne_badAccess _
  | status => simp
  | reserved => simp
  | output j =>
    cases s.busy with
    | true => simp
    | false => exact RegWord.read_ne_badAccess _

/-- No register of the window answers an aligned write with `BadAccess`. -/
theorem hostEvent_write_aligned_ne_badAccess {off : Offset} {n : Nat} (ha : aligned off n = true) (v : Word)
    (s : State) : hostEvent (.wr off n v) s ≠ .fault .badAccess := by
  rw [hostEvent, hostWrite, if_pos ha]
  cases windowReg off with
  | input k => cases hb : s.busy <;> simp
  | cmd =>
    cases hb : s.busy with
    | true => simp
    | false => exact writeCommand_ne_badAccess v hb
  | status => simp
  | reserved => simp
  | output j => simp

/-! ### The `CMD` register -/

/-- A `CMD` write that goes on, of a command or of an unsupported word, stores all 32 bits (R11, R35). -/
theorem cmd_of_hostEvent_write_cmd {w : Word} {s t : State} (h : hostEvent (.wr 0x10 4 w) s = .next t) :
    t.cmd = ⟨w, true⟩ := by
  obtain ⟨-, -, ⟨k, hk, -⟩ | ⟨-, ⟨i, hd, rfl⟩ | ⟨_, -, rfl⟩⟩⟩ := hostWrite_cases h
  · cases hk
  · rw [issue_cmd, eq_encode_of_decode hd]
  · rfl

/-- A read of `CMD` while it is marked written. -/
theorem hostEvent_read_cmd_written {s : State} (h : s.cmd.written = true) :
    ∃ t, hostEvent (.rd 0x10 4) s = .next t ∧ OnlyRead s t 0x10 s.cmd.val :=
  ⟨s.logRead 0x10 s.cmd.val, by rw [hostEvent_read_cmd, if_pos h], logRead_onlyRead ..⟩

end Sys2Proof.Machine

namespace Sys2Proof.Proofs

open Sys2Proof.Machine Sys2Proof.Claims

/-- Settles O13: the write sets one whole word of `IN`, whose lanes are the value's bytes. -/
theorem writeInput : Obligations.WriteInput := by
  refine fun k v s => ⟨fun hb => ⟨s.writeIn k v, ?_, fun i hi => ?_, ?_, fun l hl => writeIn_inReg_other s v hl,
    rfl, rfl, rfl, rfl, rfl, rfl, rfl, rfl⟩, fun hb => ?_⟩
  · rw [hostEvent_write_input, if_neg (ne_true_of_eq_false hb)]
  · rw [byteAt_of_word _ k hi, writeIn_inReg_self]
  · rw [writeIn_inReg_self]
  · rw [hostEvent_write_input, if_pos hb]

/-- Settles O14: the value read is the word itself, which is its bytes in little-endian order. -/
theorem readInput : Obligations.ReadInput := by
  refine fun k s => ⟨fun hw => ⟨s.logRead _ s.inReg[k].val, s.inReg[k].val, ?_, logRead_onlyRead .., ?_⟩, fun hw => ?_⟩
  · rw [hostEvent_read_input, if_pos hw]
  · exact word_toNat_eq_bytes s.inReg k
  · rw [hostEvent_read_input, if_neg (ne_true_of_eq_false hw)]

/-- Settles O15: a `CMD` write that goes on leaves a written `CMD`, so the last clause is the first one after it. -/
theorem readCommand : Obligations.ReadCommand := by
  refine ⟨fun s => hostEvent_read_cmd_written, fun s hw => ?_, fun w s t h => ?_⟩
  · rw [hostEvent_read_cmd, if_neg (ne_true_of_eq_false hw)]
  · have hcmd := cmd_of_hostEvent_write_cmd h
    simpa only [hcmd] using hostEvent_read_cmd_written (s := t) (by rw [hcmd])

/-- Settles O17: `BUSY` is tested first, then the word's mark. -/
theorem readOutput : Obligations.ReadOutput := by
  refine fun j s => ⟨fun hb => ?_, fun hb hw => ?_, fun hb hw =>
    ⟨s.logRead _ s.out[j].val, ?_, logRead_onlyRead ..⟩⟩
  · rw [hostEvent_read_output, if_pos hb]
  · rw [hostEvent_read_output, if_neg (ne_true_of_eq_false hb), if_neg (ne_true_of_eq_false hw)]
  · rw [hostEvent_read_output, if_neg (ne_true_of_eq_false hb), if_pos hw]

/-- Settles O8: width and alignment are tested before the register, and no register raises this fault itself. -/
theorem badAccessFaults : Obligations.BadAccessFaults := by
  refine fun off n v s => ⟨fun h => ?_, fun hn h4 => ?_⟩
  · have ha : aligned off n = false := aligned_false.mpr h
    exact ⟨hostEvent_read_not_aligned ha s, hostEvent_write_not_aligned ha v s⟩
  · have ha : aligned off n = true := aligned_true.mpr ⟨hn, h4⟩
    exact ⟨hostEvent_read_aligned_ne_badAccess ha s, hostEvent_write_aligned_ne_badAccess ha v s⟩

/-- Settles O9: these are words 6 to 15 of the window map, in every state. -/
theorem reservedOffsetFaults : Obligations.ReservedOffsetFaults := by
  intro off v s hlo hhi h4
  have ha : aligned off 4 = true := aligned_true.mpr ⟨rfl, h4⟩
  have hr : windowReg off = .reserved := windowReg_eq_reserved.mpr (by omega)
  exact ⟨hostEvent_read_reserved ha hr s, hostEvent_write_reserved ha hr v s⟩

/-- Settles O16: the bit `BUSY` of the word read is 1 exactly when a command is in flight (R15). -/
theorem readStatus : Obligations.ReadStatus := by
  refine ⟨fun s => ⟨_, s.statusWord, hostEvent_read_status s, logRead_onlyRead .., ?_⟩, hostEvent_write_status⟩
  have hbusy : s.busy = true ↔ s.pend ≠ none := Option.isSome_iff_ne_none
  simp only [statusWord_toNat, hbusy]

end Sys2Proof.Proofs
end

section
/-! PROOFS. `Decode` on the fields of a word (30_encoding.md R51 to R56, R68), and the `CMD` write of the words that
are no command. -/

namespace Sys2Proof

/-- In a word below 16 the field `ALPHA` is all that stands above `VARIANT` (R51). -/
theorem wordAlpha_of_lt {w : Word} (h : w.toNat < 16) : wordAlpha w = decide (w.toNat / 8 = 1) := by
  have hbit : wordAlpha w = decide (w.toNat / 2 ^ 3 % 2 = 1) := Nat.testBit_eq_decide_div_mod_eq
  rw [hbit, decide_eq_decide]
  omega

/-- A word without reserved bits whose fields are those of a command decodes to that command (R52, R56). -/
theorem decode_of_fields {w : Word} (i : Instr) (h : w.toNat < 16) (hv : w.toNat % 8 = i.variant.toNat)
    (ha : wordAlpha w = i.alphaBit) : decode w = .command i := by
  have hr : ¬wordReserved w ≠ 0 := not_not.mpr ((wordReserved_eq_zero w).mpr h)
  rw [decode, if_neg hr, wordVariant_toNat, hv]
  cases i <;> simp [Instr.variant, ha, Instr.alphaBit]

/-- The decoder comes to the error only past the reserved bits and past each variant of a command (R56). -/
theorem lt_and_le_of_decode_unsupported {w : Word} {v : BitVec 3} (h : decode w = .unsupported v) :
    w.toNat < 16 ∧ 6 ≤ w.toNat % 8 := by
  have hlt : w.toNat < 16 := by
    by_contra hge
    simp [decode_reserved (Nat.le_of_not_lt hge)] at h
  have hr : ¬wordReserved w ≠ 0 := not_not.mpr ((wordReserved_eq_zero w).mpr hlt)
  refine ⟨hlt, ?_⟩
  rw [decode, if_neg hr, wordVariant_toNat] at h
  by_contra hv
  interval_cases w.toNat % 8
  · cases ha : wordAlpha w <;> simp [ha] at h
  all_goals cases h

/-- The unsupported words, by their fields (R56, R68). -/
theorem exists_decode_unsupported {w : Word} :
    (∃ v, decode w = .unsupported v) ↔ w.toNat < 16 ∧ 6 ≤ w.toNat % 8 :=
  ⟨fun ⟨_, h⟩ => lt_and_le_of_decode_unsupported h, fun ⟨h, hv⟩ => ⟨_, decode_unsupported h hv⟩⟩

end Sys2Proof

namespace Sys2Proof.Proofs

open Sys2Proof.Machine Sys2Proof.Claims

/-- Settles O2: below 16 a command's word is told by its fields, and a DXT command carries the word's own `ALPHA`. -/
theorem decodeOfEveryWord : Obligations.DecodeOfEveryWord := by
  refine fun w => ⟨decode_reserved, fun h hv ha => ?_, fun h hv ha => ?_,
    fun h hv => ⟨_, decode_of_fields (.dxt1 (wordAlpha w)) h hv rfl⟩,
    fun h hv => ⟨_, decode_of_fields (.dxt2 (wordAlpha w)) h hv rfl⟩,
    fun h hv => ⟨_, decode_of_fields (.dxt3 (wordAlpha w)) h hv rfl⟩,
    fun h hv => ⟨_, decode_of_fields (.dxt4 (wordAlpha w)) h hv rfl⟩,
    fun h hv => ⟨_, decode_of_fields (.dxt5 (wordAlpha w)) h hv rfl⟩,
    fun h hv => ⟨_, decode_unsupported h hv, wordVariant_toNat w⟩⟩
  · exact decode_of_fields .raw3 h hv (by rw [wordAlpha_of_lt h, ha]; rfl)
  · exact decode_of_fields .raw4 h hv (by rw [wordAlpha_of_lt h, ha]; rfl)

/-- Settles O4: four words below 16 have `VARIANT` 6 or 7, and the write of one is `raiseUnsupported`. -/
theorem unsupportedWordsRaiseError : Obligations.UnsupportedWordsRaiseError := by
  refine ⟨fun w => ?_, fun w v s hd hp => ⟨s.raiseUnsupported w, ?_, rfl⟩⟩
  · rw [exists_decode_unsupported]
    bv_omega
  · rw [hostEvent_write_cmd_not_busy w (busy_eq_false.mpr hp), writeCommand_unsupported hd]

/-- Settles O6: the reserved bits are tested before the variant, and the write of a reserved word is the fault. -/
theorem reservedWordFaults : Obligations.ReservedWordFaults := by
  refine fun w hw => ⟨decode_reserved hw, fun s hp => ?_⟩
  rw [hostEvent_write_cmd_not_busy w (busy_eq_false.mpr hp), writeCommand_reserved (decode_reserved hw)]

end Sys2Proof.Proofs
end

section
/-! PROOFS. The expander (40_color_block.md R71 to R73). -/

namespace Sys2Proof.Machine

open Sys2Proof.Claims

/-- The shifts of R71 as divisions by a power of two. -/
theorem expand_eq_div (c n : Nat) : expand c n 8 = (expandX c n + expandX c n / 2 ^ n) / 2 ^ n := by
  simp [expand, expandX, Nat.shiftLeft_eq, Nat.shiftRight_eq_div_pow]

/-- The largest field of `n` bits gives the largest `x`. -/
theorem expandX_le {c n : Nat} (hc : c < 2 ^ n) : expandX c n ≤ expandX (2 ^ n - 1) n := by
  rw [expandX, expandX]
  omega

/-- `x` grows by 255, at least one whole divisor, from each field to the next (R72, R84). -/
theorem expand_lt_succ {n : Nat} (hn : n ≤ 7) (c : Nat) : expand c n 8 < expand (c + 1) n 8 := by
  have hpow : 2 ^ n ≤ 255 := (Nat.pow_le_pow_right two_pos hn).trans (by decide)
  have hpos : 0 < 2 ^ n := Nat.two_pow_pos n
  have hx : expandX c n + 2 ^ n ≤ expandX (c + 1) n := by
    rw [expandX, expandX]
    omega
  have hdiv : expandX c n / 2 ^ n ≤ expandX (c + 1) n / 2 ^ n := Nat.div_le_div_right (by omega)
  rw [expand_eq_div, expand_eq_div, ← Nat.succ_le_iff, Nat.succ_eq_add_one, ← Nat.add_div_right _ hpos]
  exact Nat.div_le_div_right (by omega)

theorem expand_strictMono {n : Nat} (hn : n ≤ 7) : StrictMono fun c => expand c n 8 :=
  strictMono_nat_of_lt_succ (expand_lt_succ hn)

/-- Half of the divisor is lost in the division (R72). -/
theorem expand_zero {n : Nat} (hn : 1 ≤ n) : expand 0 n 8 = 0 := by
  have hhalf : 2 ^ (n - 1) < 2 ^ n := Nat.pow_lt_pow_right one_lt_two (by omega)
  simp [expand_eq_div, expandX, Nat.div_eq_of_lt hhalf]

theorem expand_five_eq_table : ∀ c < 32, expand c 5 8 = table5.getD c 0 := by decide

theorem expand_six_eq_table : ∀ c < 64, expand c 6 8 = table6.getD c 0 := by decide

theorem expand_four_eq_table : ∀ c < 16, expand c 4 8 = table4.getD c 0 := by decide

/-- The expanded field is one byte (R72), since the largest field of 4, 5 or 6 bits expands to at most 255. -/
theorem expand_le_255 {n : Nat} (hn : n ∈ [4, 5, 6]) {c : Nat} (hc : c < 2 ^ n) : expand c n 8 ≤ 255 := by
  have htop : ∀ m ∈ [4, 5, 6], expand (2 ^ m - 1) m 8 ≤ 255 := by decide
  have hn7 : ∀ m ∈ [4, 5, 6], m ≤ 7 := by decide
  exact ((expand_strictMono (hn7 n hn)).monotone (Nat.le_sub_one_of_lt hc)).trans (htop n hn)

theorem expand8_toNat {n : Nat} (hn : n ∈ [4, 5, 6]) (c : BitVec n) : (expand8 c).toNat = expand c.toNat n 8 :=
  Nat.mod_eq_of_lt (Nat.lt_succ_of_le (expand_le_255 hn c.isLt))

end Sys2Proof.Machine

namespace Sys2Proof.Proofs

open Sys2Proof.Machine Sys2Proof.Claims

/-- Settles O43: the formula gives the tables, so what is left is about their closed entries. -/
theorem expandTables : Obligations.ExpandTables := by
  refine ⟨fun c hc => ⟨expand_five_eq_table c hc, ?_⟩, fun c hc => ⟨expand_six_eq_table c hc, ?_⟩,
    fun c hc => ⟨expand_four_eq_table c hc, ?_⟩, rfl, rfl, rfl, by decide, by decide, by decide⟩
  · rw [expand_five_eq_table c hc]
    revert c
    decide
  · rw [expand_six_eq_table c hc]
    revert c
    decide
  · rw [expand_four_eq_table c hc]
    revert c
    decide

/-- Settles O44: each bound is the one of the largest field. -/
theorem expandWidths : Obligations.ExpandWidths := by
  refine ⟨fun n hn c hc => ?_, fun n => expand_zero⟩
  have htop : ∀ m ∈ [4, 5, 6],
      expandX (2 ^ m - 1) m ≤ (if m = 4 then 3833 else if m = 5 then 7921 else 16097) ∧
      expandX (2 ^ m - 1) m + expandX (2 ^ m - 1) m / 2 ^ m ≤ (if m = 4 then 4072 else if m = 5 then 8168 else 16348) ∧
      expandX (2 ^ m - 1) m + expandX (2 ^ m - 1) m / 2 ^ m < 2 ^ 14 := by decide
  obtain ⟨hx, hsum, hwidth⟩ := htop n hn
  have hle := expandX_le hc
  have hadd : expandX c n + expandX c n / 2 ^ n ≤ expandX (2 ^ n - 1) n + expandX (2 ^ n - 1) n / 2 ^ n :=
    Nat.add_le_add hle (Nat.div_le_div_right hle)
  exact ⟨hle.trans hx, hadd.trans hsum, hadd.trans_lt hwidth, expand_eq_div c n, expand_le_255 hn hc⟩

end Sys2Proof.Proofs
end

section
/-! PROOFS. The colour sub-block as arithmetic on the snapshot's bytes (30_encoding.md R61, R62; 40_color_block.md R74
to R78), and the block commands that use it. -/

namespace Sys2Proof.Machine

open Sys2Proof.Claims

/-! ### The fields of the sub-block (R61) -/

theorem inByte_toNat (r : InReg) (i : Fin 16) : (inByte r i).toNat = byteAt r i.val := by
  have hword := byteAt_of_word r ⟨i.val / 4, by omega⟩ (Nat.mod_lt i.val four_pos)
  rw [Nat.div_add_mod] at hword
  rw [inByte, laneByte_toNat, Nat.pow_mul, hword]
  rfl

/-- Byte of `IN` at which the colour sub-block starts (R59, R60). -/
def ColorBase.start : ColorBase → Nat
  | .low => 0
  | .high => 8

theorem colorByte_toNat (r : InReg) (base : ColorBase) (k : Fin 8) :
    (colorByte r base k).toNat = byteAt r (base.start + k.val) := by
  cases base with
  | low => rw [colorByte, inByte_toNat, ColorBase.start, Nat.zero_add]
  | high => exact inByte_toNat r _

theorem colorC0_toNat (r : InReg) (base : ColorBase) : (colorC0 r base).toNat = end0 r base.start := by
  simp only [colorC0, le16_toNat, colorByte_toNat, end0]
  rfl

theorem colorC1_toNat (r : InReg) (base : ColorBase) : (colorC1 r base).toNat = end1 r base.start := by
  simp only [colorC1, le16_toNat, colorByte_toNat, end1]
  rfl

theorem le32_byte (b : Fin 4 → Byte) (q : Fin 4) :
    (le32 (b 0) (b 1) (b 2) (b 3)).toNat / 256 ^ q.val % 256 = (b q).toNat := by
  rw [le32_toNat]
  fin_cases q <;> simp <;> omega

/-- Byte `q` of the index word `I` is byte `4 + q` of the sub-block. -/
theorem colorIndices_byte (r : InReg) (base : ColorBase) (q : Fin 4) :
    (colorIndices r base).toNat / 256 ^ q.val % 256 = byteAt r (base.start + 4 + q.val) := by
  rw [Nat.add_assoc]
  exact (le32_byte (fun l => colorByte r base ⟨4 + l.val, by omega⟩) q).trans (colorByte_toNat r base _)

/-- A two-bit field lies within one byte. -/
theorem div_pow_two_mod_four (x j : Nat) : x / 2 ^ (2 * j) % 4 = x / 256 ^ (j / 4) % 256 / 4 ^ (j % 4) % 4 := by
  have hpow : 2 ^ (2 * j) = 256 ^ (j / 4) * 4 ^ (j % 4) := by
    calc 2 ^ (2 * j) = 4 ^ j := Nat.pow_mul 2 2 j
      _ = 4 ^ (4 * (j / 4)) * 4 ^ (j % 4) := by rw [← Nat.pow_add, Nat.div_add_mod]
      _ = 256 ^ (j / 4) * 4 ^ (j % 4) := by rw [Nat.pow_mul]
  have hm : j % 4 < 4 := Nat.mod_lt j four_pos
  rw [hpow, ← Nat.div_div_eq_div_mul]
  interval_cases j % 4 <;> omega

/-- The two forms of R61 select the same index. -/
theorem colorIndex_toNat (r : InReg) (base : ColorBase) (j : Fin 16) :
    (colorIndex r base j).toNat = cidx r base.start j.val := by
  rw [colorIndex, extract_toNat, cidx, ← colorIndices_byte r base ⟨j.val / 4, by omega⟩]
  exact div_pow_two_mod_four _ j.val

/-! ### Endpoints (R62, R74) -/

theorem unpack565_r_toNat (c : BitVec 16) : (unpack565 c).r.toNat = red c.toNat := by
  have hfield : (c.extractLsb' 11 5).toNat = c.toNat / 2048 := by
    have hc := c.isLt
    rw [extract_toNat]
    omega
  rw [unpack565, expand8_toNat (by decide), expand_five_eq_table _ (BitVec.isLt _), hfield, red]

theorem unpack565_g_toNat (c : BitVec 16) : (unpack565 c).g.toNat = green c.toNat := by
  rw [unpack565, expand8_toNat (by decide), expand_six_eq_table _ (BitVec.isLt _), extract_toNat]
  rfl

theorem unpack565_b_toNat (c : BitVec 16) : (unpack565 c).b.toNat = blue c.toNat := by
  rw [unpack565, expand8_toNat (by decide), expand_five_eq_table _ (BitVec.isLt _), extract_toNat, Nat.pow_zero,
    Nat.div_one]
  rfl

/-! ### Palette entries (R75, R76) -/

/-- A weighted mean of two bytes is a byte, so nothing is cut off (R83). -/
theorem blend_toNat {k0 k1 d : Nat} (hd : k0 + k1 = d) (x y : Byte) :
    (blend k0 k1 d x y).toNat = (k0 * x.toNat + k1 * y.toNat) / d := by
  have hsum : k0 * x.toNat + k1 * y.toNat ≤ d * 255 := by
    rw [← hd, Nat.add_mul]
    exact Nat.add_le_add (Nat.mul_le_mul_left k0 (Nat.le_of_lt_succ x.isLt))
      (Nat.mul_le_mul_left k1 (Nat.le_of_lt_succ y.isLt))
  exact Nat.mod_eq_of_lt (Nat.lt_succ_of_le (Nat.div_le_of_le_mul hsum))

/-- The word at index `k` of a palette, alpha included, in the spec's arithmetic (R75, R76). -/
def paletteTexel (three : Bool) (k c0 c1 : Nat) : Nat :=
  rgbOf three k c0 c1 + 16777216 * (if three && k == 3 then 0 else 255)

theorem opaqueTexel_toNat (c : Rgb) :
    c.opaqueTexel.toNat = c.r.toNat + 256 * c.g.toNat + 65536 * c.b.toNat + 16777216 * 255 :=
  rgba_toNat c.r c.g c.b 255

theorem palette4_getElem_toNat (c0 c1 : BitVec 16) (k : Fin 4) :
    (palette4 c0 c1)[k].toNat = paletteTexel false k.val c0.toNat c1.toNat := by
  simp only [paletteTexel, rgbOf, ← unpack565_r_toNat, ← unpack565_g_toNat, ← unpack565_b_toNat]
  match k with
  | 0 => exact opaqueTexel_toNat _
  | 1 => exact opaqueTexel_toNat _
  | 2 =>
    refine (opaqueTexel_toNat _).trans ?_
    simp [Rgb.blend, blend_toNat, channel]
  | 3 =>
    refine (opaqueTexel_toNat _).trans ?_
    simp [Rgb.blend, blend_toNat, channel]

theorem palette3T_getElem_toNat (c0 c1 : BitVec 16) (k : Fin 4) :
    (palette3T c0 c1)[k].toNat = paletteTexel true k.val c0.toNat c1.toNat := by
  simp only [paletteTexel, rgbOf, ← unpack565_r_toNat, ← unpack565_g_toNat, ← unpack565_b_toNat]
  match k with
  | 0 => exact opaqueTexel_toNat _
  | 1 => exact opaqueTexel_toNat _
  | 2 =>
    refine (opaqueTexel_toNat _).trans ?_
    simp [Rgb.blend, blend_toNat, channel]
  | 3 => simp [palette3T, rgba_toNat, channel]

theorem colorPalette_getElem_toNat (punch : Bool) (c0 c1 : BitVec 16) (k : Fin 4) :
    (colorPalette punch c0 c1)[k].toNat =
      paletteTexel (punch && decide (c0.toNat ≤ c1.toNat)) k.val c0.toNat c1.toNat := by
  rw [colorPalette]
  by_cases h : punch = true ∧ c0.toNat ≤ c1.toNat
  · have hthree : (punch && decide (c0.toNat ≤ c1.toNat)) = true := by simpa using h
    rw [if_pos h, palette3T_getElem_toNat, hthree]
  · have hthree : (punch && decide (c0.toNat ≤ c1.toNat)) = false := by simpa using h
    rw [if_neg h, palette4_getElem_toNat, hthree]

/-- A colour texel is the entry its index selects of the palette its endpoints give (R77, R78). -/
theorem colorTexel_toNat (base : ColorBase) (punch : Bool) (r : InReg) (j : Fin 16) :
    (colorTexel base punch r j).toNat =
      paletteTexel (punch && decide (end0 r base.start ≤ end1 r base.start)) (cidx r base.start j.val)
        (end0 r base.start) (end1 r base.start) := by
  rw [← colorC0_toNat, ← colorC1_toNat, ← colorIndex_toNat]
  exact colorPalette_getElem_toNat punch _ _ (colorIndex r base j).toFin

/-! ### The colour bytes of a texel word (R67) -/

theorem channel_lt {x0 x1 : Nat} (h0 : x0 < 256) (h1 : x1 < 256) (three : Bool) (k : Nat) :
    channel three k x0 x1 < 256 := by
  match k with
  | 0 => exact h0
  | 1 => exact h1
  | 2 =>
    cases three with
    | false => exact Nat.div_lt_of_lt_mul (by omega)
    | true => exact Nat.div_lt_of_lt_mul (by omega)
  | _ + 3 =>
    cases three with
    | false => exact Nat.div_lt_of_lt_mul (by omega)
    | true => exact Nat.zero_lt_succ 255

/-- The colour bytes end below bit 24, the lowest bit of alpha. -/
theorem rgbOf_lt (three : Bool) (k : Nat) (c0 c1 : BitVec 16) : rgbOf three k c0.toNat c1.toNat < 16777216 := by
  simp only [rgbOf, ← unpack565_r_toNat, ← unpack565_g_toNat, ← unpack565_b_toNat]
  have hr := channel_lt (unpack565 c0).r.isLt (unpack565 c1).r.isLt three k
  have hg := channel_lt (unpack565 c0).g.isLt (unpack565 c1).g.isLt three k
  have hb := channel_lt (unpack565 c0).b.isLt (unpack565 c1).b.isLt three k
  omega

theorem colorTexel_mod (base : ColorBase) (punch : Bool) (r : InReg) (j : Fin 16) :
    (colorTexel base punch r j).toNat % 16777216 =
      rgbOf (punch && decide (end0 r base.start ≤ end1 r base.start)) (cidx r base.start j.val)
        (end0 r base.start) (end1 r base.start) := by
  have hlt := rgbOf_lt (punch && decide (end0 r base.start ≤ end1 r base.start)) (cidx r base.start j.val)
    (colorC0 r base) (colorC1 r base)
  rw [colorC0_toNat, colorC1_toNat] at hlt
  rw [colorTexel_toNat, paletteTexel, Nat.add_mul_mod_self_left, Nat.mod_eq_of_lt hlt]

theorem withAlpha_toNat (alpha : Byte) (col : Word) :
    (withAlpha alpha col).toNat = col.toNat % 16777216 + 16777216 * alpha.toNat := by
  rw [withAlpha, append_toNat, extract_toNat, Nat.pow_zero, Nat.div_one, Nat.add_comm, Nat.mul_comm]
  rfl

/-- A texel with its alpha replaced keeps the colour bytes of the four-colour palette (R90). -/
theorem withAlpha_colorTexel_mod (alpha : Byte) (r : InReg) (j : Fin 16) :
    (withAlpha alpha (colorTexel .high false r j)).toNat % 16777216 =
      rgbOf false (cidx r 8 j.val) (end0 r 8) (end1 r 8) := by
  rw [withAlpha_toNat, Nat.add_mul_mod_self_left, Nat.mod_mod, colorTexel_mod]
  rfl

/-! ### What a completion leaves in `OUT` (R24, R87) -/

/-- With a command in flight, what goes on is its own completion. -/
theorem exec_next_of_pending {i : Instr} {s t : State} {p : Pend} (hp : s.pend = some p) (h : exec i s = .next t) :
    p.op = i ∧ operandsWritten i p.snap = true ∧ t = s.complete (commandResult i p.snap s.out) := by
  obtain ⟨hnone, -⟩ | ⟨q, hq, hop, hw, ht⟩ := exec_cases h
  · simp [hp] at hnone
  · obtain rfl : p = q := Option.some.inj (hp.symm.trans hq)
    exact ⟨hop, hw, ht⟩

/-- A completion of a command whose result is a whole tile leaves that tile in `OUT`. -/
theorem exec_tile_out {i : Instr} {f : InReg → Fin 16 → Word} (hi : ∀ r o, commandResult i r o = tileWritten (f r))
    {s t : State} {p : Pend} (hp : s.pend = some p) (h : exec i s = .next t) (j : Fin 16) :
    t.out[j] = ⟨f p.snap j, true⟩ := by
  obtain ⟨-, -, rfl⟩ := exec_next_of_pending hp h
  rw [complete_out, hi]
  exact tileWritten_getElem _ j.val j.isLt

/-- `DXT1` leaves its colour texels, palette alpha included (R85). -/
theorem exec_dxt1_out {a : Bool} {s t : State} {p : Pend} (hp : s.pend = some p) (h : exec (.dxt1 a) s = .next t)
    (j : Fin 16) : t.out[j] = ⟨colorTexel .low true p.snap j, true⟩ :=
  exec_tile_out (fun _ _ => rfl) hp h j

/-- `DXT2` to `DXT5` differ only in the alpha byte they put over the four-colour texel (R90, R99). -/
theorem commandResult_eq_withAlpha {a : Bool} {i : Instr}
    (hi : i = .dxt2 a ∨ i = .dxt3 a ∨ i = .dxt4 a ∨ i = .dxt5 a) : ∃ alpha : InReg → Fin 16 → Byte,
      ∀ r o, commandResult i r o = tileWritten fun j => withAlpha (alpha r j) (colorTexel .high false r j) := by
  obtain rfl | rfl | rfl | rfl := hi
  · exact ⟨alpha4, fun _ _ => rfl⟩
  · exact ⟨alpha4, fun _ _ => rfl⟩
  · exact ⟨alphaInterp, fun _ _ => rfl⟩
  · exact ⟨alphaInterp, fun _ _ => rfl⟩

/-! ### Corner cases (R84) -/

/-- Equal endpoints make every computed entry of the four-colour palette equal to them. -/
theorem channel_self (k x : Nat) : channel false k x x = x := by
  match k with
  | 0 => rfl
  | 1 => rfl
  | 2 =>
    change (2 * x + x) / 3 = x
    omega
  | _ + 3 =>
    change (x + 2 * x) / 3 = x
    omega

/-- An all-zero sub-block has equal endpoints 0 and selects entry 0 at every texel. -/
theorem colorTexel_low_of_zero {r : InReg} (h : ∀ b < 8, byteAt r b = 0) (punch : Bool) (j : Fin 16) :
    (colorTexel .low punch r j).toNat = paletteTexel punch 0 0 0 := by
  have h0 : end0 r 0 = 0 := by rw [end0, h 0 (by decide), h 1 (by decide)]
  have h1 : end1 r 0 = 0 := by rw [end1, h 2 (by decide), h 3 (by decide)]
  have hidx : cidx r 0 j.val = 0 := by rw [cidx, h _ (by omega), Nat.zero_div, Nat.zero_mod]
  rw [colorTexel_toNat, ColorBase.start, h0, h1, hidx, decide_eq_true le_rfl, Bool.and_true]

end Sys2Proof.Machine

namespace Sys2Proof.Proofs

open Sys2Proof.Machine Sys2Proof.Claims

/-- Settles O39: the colour bytes are those of the palette entry the index selects; only `DXT1` compares endpoints. -/
theorem paletteChoice : Obligations.PaletteChoice := by
  refine fun i s t p hp h j => ⟨?_, ?_, fun a hi => ?_⟩
  · rintro a rfl hlt
    rw [exec_dxt1_out hp h, colorTexel_mod]
    simp [ColorBase.start, Nat.not_le_of_lt hlt]
  · rintro a rfl hle
    rw [exec_dxt1_out hp h, colorTexel_mod]
    simp [ColorBase.start, hle]
  · obtain ⟨alpha, halpha⟩ := commandResult_eq_withAlpha hi
    rw [exec_tile_out halpha hp h, withAlpha_colorTexel_mod]

/-- Settles O47: equal endpoints, the all-zero unit and injectivity by their lemmas, the rest on closed values. -/
theorem colorCornerCases : Obligations.ColorCornerCases := by
  refine ⟨fun c => ⟨if_pos ⟨rfl, le_rfl⟩, rfl, fun k => ?_⟩, ⟨rfl, by decide⟩, by decide, ?_, ?_⟩
  · rw [colorPalette_getElem_toNat]
    simp [paletteTexel, rgbOf, channel_self]
  · intro a s t p hp _ hzero h j
    rw [exec_dxt1_out hp h]
    exact BitVec.eq_of_toNat_eq (colorTexel_low_of_zero hzero true j)
  · have hn7 : ∀ m ∈ [4, 5, 6], m ≤ 7 := by decide
    exact fun n hn c _ d _ heq => (expand_strictMono (hn7 n hn)).injective heq

end Sys2Proof.Proofs
end

section
/-! PROOFS. `DXT1` (41_dxt1.md R85, R86), and what every completion shares: its operands (10_state.md R21) and its frame
(R24). -/

namespace Sys2Proof.Machine

open Sys2Proof.Claims

/-! ### Completion of the command in flight (R24) -/

/-- The operands are written exactly when each word the command reads is. -/
theorem operandsWritten_iff {i : Instr} {snap : InReg} :
    operandsWritten i snap = true ↔ ∀ k : Fin 4, readsWord i k = true → snap[k].written = true := by
  simp [operandsWritten, Fin.forall_fin_succ, imp_iff_not_or, and_assoc]

theorem complete_completedFrom (s : State) (o : OutReg) : CompletedFrom s (s.complete o) :=
  ⟨rfl, rfl, rfl, rfl, rfl, rfl, rfl, rfl, rfl⟩

/-- The command in flight completes within the frame of R24 when its operands were written. -/
theorem exec_completes {i : Instr} {s : State} {p : Pend} (hp : s.pend = some p) (hop : p.op = i)
    (hw : operandsWritten i p.snap = true) : ∃ t, exec i s = .next t ∧ CompletedFrom s t := by
  subst hop
  exact ⟨_, exec_of_pending hp hw, complete_completedFrom ..⟩

/-- The command in flight faults when its operands were not all written. -/
theorem exec_faults {i : Instr} {s : State} {p : Pend} (hp : s.pend = some p) (hop : p.op = i)
    (hw : ¬operandsWritten i p.snap = true) : exec i s = .fault .unwrittenOperand := by
  subst hop
  exact exec_of_unwritten hp (Bool.eq_false_of_not_eq_true hw)

/-! ### The unit and the texels of `DXT1` -/

/-- The eight bytes of a `DXT1` unit are words 0 and 1 (R57, R58). -/
theorem operandsWritten_dxt1 {a : Bool} {snap : InReg} :
    operandsWritten (.dxt1 a) snap = true ↔ snap[0].written = true ∧ snap[1].written = true := by
  simp [operandsWritten_iff, readsWord, unitBytes, Fin.forall_fin_succ]

theorem colorTexel_low_toNat (r : InReg) (j : Fin 16) : (colorTexel .low true r j).toNat = dxt1Texel r j.val :=
  colorTexel_toNat .low true r j

/-- The alpha byte stands above the colour bytes (R67), and only entry 3 of the three-colour palette has alpha 0. -/
theorem colorTexel_alpha (base : ColorBase) (punch : Bool) (r : InReg) (j : Fin 16) :
    (colorTexel base punch r j).toNat / 16777216 =
      if (punch && decide (end0 r base.start ≤ end1 r base.start)) && cidx r base.start j.val == 3 then 0 else 255 := by
  have hlt := rgbOf_lt (punch && decide (end0 r base.start ≤ end1 r base.start)) (cidx r base.start j.val)
    (colorC0 r base) (colorC1 r base)
  rw [colorC0_toNat, colorC1_toNat] at hlt
  rw [colorTexel_toNat, paletteTexel, Nat.add_mul_div_left _ _ (by decide), Nat.div_eq_of_lt hlt, Nat.zero_add]

/-- Entry 3 of the three-colour palette is transparent black (R76). -/
theorem paletteTexel_three_eq_zero (c0 c1 : Nat) : paletteTexel true 3 c0 c1 = 0 := rfl

end Sys2Proof.Machine

namespace Sys2Proof.Proofs

open Sys2Proof.Machine Sys2Proof.Claims

/-- Settles O27: the marks of words 0 and 1 decide between the completion, which writes each colour texel, and the
fault. -/
theorem dxt1Completes : Obligations.Dxt1Completes := by
  refine ⟨by decide, by decide, fun a s p hp hop => ⟨fun hw => ?_, fun hw => ?_⟩⟩
  · obtain ⟨t, ht, hframe⟩ := exec_completes hp hop (operandsWritten_dxt1.mpr hw)
    refine ⟨t, ht, hframe, fun j => ?_⟩
    rw [exec_dxt1_out hp ht]
    exact ⟨rfl, colorTexel_low_toNat p.snap j⟩
  · exact exec_faults hp hop (mt operandsWritten_dxt1.mp hw)

/-- Settles O36: the alpha of a texel is that of the palette entry its index selects, and the one entry with alpha 0
is the whole word 0. -/
theorem dxt1AlphaIsOneBit : Obligations.Dxt1AlphaIsOneBit := by
  intro a s t p hp _ h j
  rw [exec_dxt1_out hp h]
  refine ⟨fun hlt => ?_, fun hle hidx => ?_, fun _ hidx => ?_⟩
  · simp [colorTexel_alpha, ColorBase.start, Nat.not_le_of_lt hlt]
  · apply BitVec.eq_of_toNat_eq
    rw [colorTexel_toNat, ColorBase.start, decide_eq_true hle, hidx]
    exact paletteTexel_three_eq_zero ..
  · simp [colorTexel_alpha, ColorBase.start, hidx]

end Sys2Proof.Proofs
end

section
/-! PROOFS. `DXT2` and `DXT3` (42_dxt23.md R89 to R94), and what the 16-byte units share: the operand words
(30_encoding.md R57, R58) and the bytes of the alpha sub-block (R63, R64). -/

namespace Sys2Proof.Machine

open Sys2Proof.Claims

/-! ### The unit and its alpha nibbles (R57, R63) -/

/-- A 16-byte unit fills all four words of `IN` (R58). -/
theorem operandsWritten_of_unitBytes_eq {i : Instr} (hi : unitBytes i = 16) {snap : InReg} :
    operandsWritten i snap = true ↔ ∀ k : Fin 4, snap[k].written = true := by
  have hreads (k : Fin 4) : readsWord i k = true := by
    rw [readsWord, hi, decide_eq_true_iff]
    omega
  simp [operandsWritten_iff, hreads]

theorem le64_byte (b : Fin 8 → Byte) (q : Fin 8) :
    (le64 (b 0) (b 1) (b 2) (b 3) (b 4) (b 5) (b 6) (b 7)).toNat / 256 ^ q.val % 256 = (b q).toNat := by
  rw [le64_toNat]
  fin_cases q <;> simp <;> omega

theorem alphaBits_byte (r : InReg) (q : Fin 8) : (alphaBits r).toNat / 256 ^ q.val % 256 = byteAt r q.val :=
  (le64_byte (fun l => inByte r ⟨l.val, by omega⟩) q).trans (inByte_toNat r _)

/-- A four-bit field lies within one byte. -/
theorem div_pow_four_mod_sixteen (x j : Nat) :
    x / 2 ^ (4 * j) % 16 = x / 256 ^ (j / 2) % 256 / 16 ^ (j % 2) % 16 := by
  have hpow : 2 ^ (4 * j) = 256 ^ (j / 2) * 16 ^ (j % 2) := by
    calc 2 ^ (4 * j) = 16 ^ j := Nat.pow_mul 2 4 j
      _ = 16 ^ (2 * (j / 2)) * 16 ^ (j % 2) := by rw [← Nat.pow_add, Nat.div_add_mod]
      _ = 256 ^ (j / 2) * 16 ^ (j % 2) := by rw [Nat.pow_mul]
  have hm : j % 2 < 2 := Nat.mod_lt j two_pos
  rw [hpow, ← Nat.div_div_eq_div_mul]
  interval_cases j % 2 <;> omega

/-- The two forms of R63 select the same nibble. -/
theorem alphaNibble_toNat (r : InReg) (j : Fin 16) : (alphaNibble r j).toNat = nibble r j.val := by
  rw [alphaNibble, extract_toNat, nibble, ← alphaBits_byte r ⟨j.val / 2, by omega⟩]
  exact div_pow_four_mod_sixteen _ j.val

/-! ### The texel (R89 to R91) -/

theorem alpha4_toNat (r : InReg) (j : Fin 16) : (alpha4 r j).toNat = table4.getD (nibble r j.val) 0 := by
  rw [alpha4, expand8_toNat (by decide), expand_four_eq_table _ (BitVec.isLt _), alphaNibble_toNat]

/-- The alpha byte of an explicit-alpha texel is its own expanded nibble. -/
theorem explicitTexel_alpha (r : InReg) (j : Fin 16) :
    (explicitTexel r j).toNat / 16777216 = table4.getD (nibble r j.val) 0 := by
  rw [explicitTexel, withAlpha_toNat, Nat.add_mul_div_left _ _ (by decide), Nat.div_eq_of_lt (Nat.mod_lt _ (by decide)),
    Nat.zero_add, alpha4_toNat]

/-- The colour bytes of an explicit-alpha texel are those of the four-colour palette, whatever its alpha (R90). -/
theorem explicitTexel_mod (r : InReg) (j : Fin 16) : (explicitTexel r j).toNat % 16777216 = fourColor r j.val :=
  withAlpha_colorTexel_mod (alpha4 r j) r j

theorem explicitTexel_toNat (r : InReg) (j : Fin 16) : (explicitTexel r j).toNat = dxt3Texel r j.val := by
  rw [dxt3Texel, ← explicitTexel_alpha, ← explicitTexel_mod, Nat.mod_add_div]

/-- Every nibble has its entry in the table of R89. -/
theorem explicitAlpha_mem_table4 (r : InReg) (j : Nat) : table4.getD (nibble r j) 0 ∈ table4 := by
  have hlt : nibble r j < table4.length := Nat.mod_lt _ (by decide)
  rw [List.getD_eq_getElem _ _ hlt]
  exact List.getElem_mem hlt

/-! ### The completion (R91, R92) -/

section
variable {a : Bool} {i : Instr} {s t : State} {p : Pend}

/-- Both commands leave the same sixteen texels (R92). -/
theorem exec_explicit_out (hi : i = .dxt2 a ∨ i = .dxt3 a) (hp : s.pend = some p) (h : exec i s = .next t)
    (j : Fin 16) : t.out[j] = ⟨explicitTexel p.snap j, true⟩ := by
  have hresult : ∀ r o, commandResult i r o = tileWritten (explicitTexel r) := by
    obtain rfl | rfl := hi
    · exact fun _ _ => rfl
    · exact fun _ _ => rfl
  exact exec_tile_out hresult hp h j

/-- The rule of R91, one for both commands: the marks of the four words decide between the completion, which writes each
texel, and the fault. -/
theorem exec_explicit_completes_or_faults (hi : i = .dxt2 a ∨ i = .dxt3 a) (hp : s.pend = some p) (hop : p.op = i) :
    ((∀ k : Fin 4, p.snap[k].written = true) →
      ∃ t, exec i s = .next t ∧ CompletedFrom s t ∧
        ∀ j : Fin 16, t.out[j].written = true ∧ t.out[j].val.toNat = dxt3Texel p.snap j.val) ∧
    (¬(∀ k : Fin 4, p.snap[k].written = true) → exec i s = .fault .unwrittenOperand) := by
  have hunit : unitBytes i = 16 := by obtain rfl | rfl := hi <;> rfl
  rw [← operandsWritten_of_unitBytes_eq hunit]
  refine ⟨fun hw => ?_, exec_faults hp hop⟩
  obtain ⟨t, ht, hframe⟩ := exec_completes hp hop hw
  refine ⟨t, ht, hframe, fun j => ?_⟩
  rw [exec_explicit_out hi hp ht]
  exact ⟨rfl, explicitTexel_toNat p.snap j⟩

end

/-- In the same state, with the same snapshot, the two completions are one outcome (R92). -/
theorem exec_dxt2_eq_exec_dxt3 (a : Bool) (s : State) (snap : InReg) (n : Nat) :
    exec (.dxt2 a) { s with pend := some ⟨.dxt2 a, snap, n⟩ } =
      exec (.dxt3 a) { s with pend := some ⟨.dxt3 a, snap, n⟩ } := by
  cases hw : operandsWritten (.dxt3 a) snap with
  | false =>
    have h2 := exec_of_unwritten (s := { s with pend := some ⟨.dxt2 a, snap, n⟩ }) rfl hw
    have h3 := exec_of_unwritten (s := { s with pend := some ⟨.dxt3 a, snap, n⟩ }) rfl hw
    exact h2.trans h3.symm
  | true =>
    have h2 := exec_of_pending (s := { s with pend := some ⟨.dxt2 a, snap, n⟩ }) rfl hw
    have h3 := exec_of_pending (s := { s with pend := some ⟨.dxt3 a, snap, n⟩ }) rfl hw
    exact h2.trans h3.symm

end Sys2Proof.Machine

namespace Sys2Proof.Proofs

open Sys2Proof.Machine Sys2Proof.Claims

/-- Settles O28: the rule both explicit-alpha commands have. -/
theorem dxt3Completes : Obligations.Dxt3Completes :=
  ⟨by decide, by decide, fun _ _ _ => exec_explicit_completes_or_faults (.inr rfl)⟩

/-- Settles O29: the same rule, and equal outcomes in the same state. -/
theorem dxt2Completes : Obligations.Dxt2Completes :=
  ⟨by decide, by decide, fun _ _ _ => exec_explicit_completes_or_faults (.inl rfl), exec_dxt2_eq_exec_dxt3⟩

/-- Settles O37: the alpha is an entry of the table, whose largest is 254. -/
theorem explicitAlphaNeverOpaque : Obligations.ExplicitAlphaNeverOpaque := by
  intro a i s t hi hb h j
  obtain ⟨p, hp⟩ := busy_eq_true.mp hb
  have hne : ∀ x ∈ table4, x ≠ 255 := by decide
  have hmem := explicitAlpha_mem_table4 p.snap j.val
  rw [exec_explicit_out hi hp h, explicitTexel_alpha]
  exact ⟨hmem, hne _ hmem⟩

/-- Settles O38: the alpha is a function of the nibble alone, the colour one of the index and the endpoints alone. -/
theorem explicitLanesIndependent : Obligations.ExplicitLanesIndependent := by
  intro a i s s' t t' p p' hi hp hp' h h' j
  rw [exec_explicit_out hi hp h, exec_explicit_out hi hp' h']
  refine ⟨fun hnibble => ?_, fun h0 h1 hidx => ?_, rfl⟩
  · rw [explicitTexel_alpha, explicitTexel_alpha, hnibble]
  · rw [explicitTexel_mod, explicitTexel_mod, fourColor, fourColor, h0, h1, hidx]

end Sys2Proof.Proofs
end

section
/-! PROOFS. `DXT4` and `DXT5` (43_dxt45.md R95 to R100): the interpolated alpha as arithmetic on the snapshot's bytes,
and the rule both commands complete by. -/

namespace Sys2Proof.Machine

open Sys2Proof.Claims

/-! ### The alpha sub-block (R64) -/

theorem alphaBits_toNat (r : InReg) :
    (alphaBits r).toNat = byteAt r 0 + 256 * byteAt r 1 + 2 ^ 16 * indexBits r := by
  simp only [alphaBits, le64_toNat, inByte_toNat, Fin.coe_ofNat_eq_mod, Nat.reduceMod, indexBits]
  omega

/-- The index bits of an alpha sub-block are those above its two endpoint bytes. -/
theorem alphaBits_div_eq_indexBits (r : InReg) : (alphaBits r).toNat / 2 ^ 16 = indexBits r := by
  have h0 : byteAt r 0 < 256 := inByte_toNat r 0 ▸ (inByte r 0).isLt
  have h1 : byteAt r 1 < 256 := inByte_toNat r 1 ▸ (inByte r 1).isLt
  rw [alphaBits_toNat, Nat.add_mul_div_left _ _ (by decide), Nat.div_eq_of_lt (by omega), Nat.zero_add]

theorem alphaIndex_toNat (r : InReg) (j : Fin 16) : (alphaIndex r j).toNat = aidx r j.val := by
  rw [alphaIndex, extract_toNat, Nat.pow_add, ← Nat.div_div_eq_div_mul, alphaBits_div_eq_indexBits]
  rfl

/-! ### The alpha palette (R95 to R97) -/

/-- Eight values (R96): the two endpoints and six weighted means of them. -/
theorem alphaPalette8_getElem_toNat {a0 a1 : Byte} (h : a1.toNat < a0.toNat) (k : Fin 8) :
    (alphaPalette8 a0 a1)[k].toNat = alphaEntry a0.toNat a1.toNat k.val := by
  fin_cases k <;> simp [alphaPalette8, alphaEntry, blend_toNat, h]

/-- Six values (R97): the two endpoints, four weighted means of them, and the fixed 0 and 255. -/
theorem alphaPalette6_getElem_toNat {a0 a1 : Byte} (h : ¬a1.toNat < a0.toNat) (k : Fin 8) :
    (alphaPalette6 a0 a1)[k].toNat = alphaEntry a0.toNat a1.toNat k.val := by
  fin_cases k <;> simp [alphaPalette6, alphaEntry, blend_toNat, h]

theorem alphaPalette_getElem_toNat (a0 a1 : Byte) (k : Fin 8) :
    (alphaPalette a0 a1)[k].toNat = alphaEntry a0.toNat a1.toNat k.val := by
  rw [alphaPalette]
  by_cases h : a1.toNat < a0.toNat
  · rw [if_pos h, alphaPalette8_getElem_toNat h]
  · rw [if_neg h, alphaPalette6_getElem_toNat h]

/-! ### The texel (R98, R99) -/

/-- The alpha of a texel is the entry its index selects of the palette its endpoints give. -/
theorem alphaInterp_toNat (r : InReg) (j : Fin 16) :
    (alphaInterp r j).toNat = alphaEntry (byteAt r 0) (byteAt r 1) (aidx r j.val) := by
  have h0 : (alphaA0 r).toNat = byteAt r 0 := inByte_toNat r 0
  have h1 : (alphaA1 r).toNat = byteAt r 1 := inByte_toNat r 1
  rw [← h0, ← h1, ← alphaIndex_toNat]
  exact alphaPalette_getElem_toNat _ _ (alphaIndex r j).toFin

theorem interpTexel_toNat (r : InReg) (j : Fin 16) : (interpTexel r j).toNat = dxt5Texel r j.val := by
  rw [interpTexel, withAlpha_toNat, colorTexel_mod, alphaInterp_toNat]
  rfl

/-! ### The completion (R99, R100) -/

/-- A command that reads all four words and whose result is a whole tile: the marks of the four words decide between the
completion, which writes each texel, and the fault. -/
theorem exec_tile_completes_or_faults {i : Instr} {f : InReg → Fin 16 → Word} {texel : InReg → Nat → Nat}
    (hunit : unitBytes i = 16) (hresult : ∀ r o, commandResult i r o = tileWritten (f r))
    (htexel : ∀ r j, (f r j).toNat = texel r j.val) {s : State} {p : Pend} (hp : s.pend = some p) (hop : p.op = i) :
    ((∀ k : Fin 4, p.snap[k].written = true) →
      ∃ t, exec i s = .next t ∧ CompletedFrom s t ∧
        ∀ j : Fin 16, t.out[j].written = true ∧ t.out[j].val.toNat = texel p.snap j.val) ∧
    (¬(∀ k : Fin 4, p.snap[k].written = true) → exec i s = .fault .unwrittenOperand) := by
  rw [← operandsWritten_of_unitBytes_eq hunit]
  refine ⟨fun hw => ?_, exec_faults hp hop⟩
  obtain ⟨t, ht, hframe⟩ := exec_completes hp hop hw
  refine ⟨t, ht, hframe, fun j => ?_⟩
  rw [exec_tile_out hresult hp ht]
  exact ⟨rfl, htexel p.snap j⟩

/-- Commands with the same unit and the same result complete alike from the same state and snapshot. -/
theorem exec_eq_of_unitBytes_of_commandResult {i i' : Instr} (hunit : unitBytes i = unitBytes i')
    (hresult : commandResult i = commandResult i') (s : State) (snap : InReg) (n : Nat) :
    exec i { s with pend := some ⟨i, snap, n⟩ } = exec i' { s with pend := some ⟨i', snap, n⟩ } := by
  have hwritten : operandsWritten i snap = operandsWritten i' snap := by
    simp only [operandsWritten, readsWord, hunit]
  simp only [exec_eq_runCommand, runCommand, hwritten, hresult, if_true]
  rfl

end Sys2Proof.Machine

namespace Sys2Proof.Proofs

open Sys2Proof.Machine Sys2Proof.Claims

/-- Settles O30: a 16-byte unit whose result is the tile of interpolated texels. -/
theorem dxt5Completes : Obligations.Dxt5Completes :=
  ⟨by decide, by decide,
    fun a _ _ => exec_tile_completes_or_faults (i := .dxt5 a) (f := interpTexel) rfl (fun _ _ => rfl) interpTexel_toNat⟩

/-- Settles O31: the result of `DXT4` is that of `DXT5`, so the same texels and equal outcomes in the same state. -/
theorem dxt4Completes : Obligations.Dxt4Completes :=
  ⟨by decide, by decide,
    fun a _ _ => exec_tile_completes_or_faults (i := .dxt4 a) (f := interpTexel) rfl (fun _ _ => rfl) interpTexel_toNat,
    fun _ => exec_eq_of_unitBytes_of_commandResult rfl rfl⟩

end Sys2Proof.Proofs
end

section
/-! PROOFS. `RAW3` and `RAW4` (44_uncompressed.md R102 to R105): the exchange of blue and red as arithmetic on the
snapshot's first word, and the completion that writes `OUT.t[0]` alone. -/

namespace Sys2Proof.Machine

open Sys2Proof.Claims

/-! ### The texel (R102, R103) -/

/-- Bytes 0 to 3 of `IN` lie in its first word. -/
theorem byteAt_first_word (r : InReg) {i : Nat} (hi : i < 4) : byteAt r i = r[0].val.toNat / 256 ^ i % 256 := by
  simpa using byteAt_of_word r 0 hi

/-- Blue and red change places and green stays, whatever the alpha byte. -/
theorem rgba_swapped_toNat (r : InReg) (alpha : Byte) :
    (rgba (inByte r 2) (inByte r 1) (inByte r 0) alpha).toNat = swapped r[0].val.toNat alpha.toNat := by
  simp [rgba_toNat, inByte_toNat, byteAt_first_word, swapped]

theorem raw3Texel_toNat (r : InReg) : (raw3Texel r).toNat = swapped r[0].val.toNat 255 :=
  rgba_swapped_toNat r 255

theorem raw4Texel_toNat (r : InReg) :
    (raw4Texel r).toNat = swapped r[0].val.toNat (r[0].val.toNat / 16777216) := by
  have halpha : (inByte r 3).toNat = r[0].val.toNat / 16777216 := by
    have hlt := r[0].val.isLt
    have hbyte : byteAt r 3 = r[0].val.toNat / 256 ^ 3 % 256 := byteAt_first_word r (by decide)
    rw [inByte_toNat]
    exact hbyte.trans (Nat.mod_eq_of_lt (by omega))
  rw [raw4Texel, rgba_swapped_toNat, halpha]

/-! ### The completion (R105) -/

/-- A unit of at most four bytes lies in word 0 (R57, R58). -/
theorem operandsWritten_of_unitBytes_le {i : Instr} (hpos : 0 < unitBytes i) (hle : unitBytes i ≤ 4) {snap : InReg} :
    operandsWritten i snap = true ↔ snap[0].written = true := by
  have hreads (k : Fin 4) : readsWord i k = true ↔ k = 0 := by
    rw [readsWord, decide_eq_true_iff]
    omega
  simp [operandsWritten_iff, hreads]

/-- A completion of a command whose result is one texel writes that texel over `OUT` as it was. -/
theorem exec_texel_out {i : Instr} {f : InReg → Word} (hi : ∀ r o, commandResult i r o = texelWritten (f r) o)
    {s t : State} {p : Pend} (hp : s.pend = some p) (h : exec i s = .next t) : t.out = texelWritten (f p.snap) s.out := by
  obtain ⟨-, -, rfl⟩ := exec_next_of_pending hp h
  rw [complete_out, hi]

/-- A command that reads word 0 alone and whose result is one texel: the mark of word 0 decides between the completion,
which writes the texel to `OUT.t[0]` and keeps the other words, and the fault. -/
theorem exec_texel_completes_or_faults {i : Instr} {f : InReg → Word} {texel : InReg → Nat}
    (hpos : 0 < unitBytes i) (hle : unitBytes i ≤ 4) (hresult : ∀ r o, commandResult i r o = texelWritten (f r) o)
    (htexel : ∀ r, (f r).toNat = texel r) {s : State} {p : Pend} (hp : s.pend = some p) (hop : p.op = i) :
    (p.snap[0].written = true →
      ∃ t, exec i s = .next t ∧ CompletedFrom s t ∧ t.out[0].written = true ∧ t.out[0].val.toNat = texel p.snap ∧
        ∀ j : Fin 16, j ≠ 0 → t.out[j] = s.out[j]) ∧
    (p.snap[0].written = false → exec i s = .fault .unwrittenOperand) := by
  rw [← Bool.not_eq_true, ← operandsWritten_of_unitBytes_le hpos hle]
  refine ⟨fun hw => ?_, exec_faults hp hop⟩
  obtain ⟨t, ht, hframe⟩ := exec_completes hp hop hw
  refine ⟨t, ht, hframe, ?_⟩
  rw [exec_texel_out hresult hp ht, texelWritten_zero]
  exact ⟨rfl, htexel p.snap, fun j => texelWritten_other _ _⟩

/-- Both texel commands have a result of one texel. -/
theorem commandResult_eq_texelWritten {i : Instr} (hi : i = .raw3 ∨ i = .raw4) :
    ∃ f : InReg → Word, ∀ r o, commandResult i r o = texelWritten (f r) o := by
  obtain rfl | rfl := hi
  · exact ⟨raw3Texel, fun _ _ => rfl⟩
  · exact ⟨raw4Texel, fun _ _ => rfl⟩

end Sys2Proof.Machine

namespace Sys2Proof.Proofs

open Sys2Proof.Machine Sys2Proof.Claims

/-- Settles O32: a unit in word 0 whose result is the one texel with alpha 255. -/
theorem raw3Completes : Obligations.Raw3Completes :=
  ⟨by decide, fun _ _ => exec_texel_completes_or_faults (i := .raw3) (by decide) (by decide) (fun _ _ => rfl)
    raw3Texel_toNat⟩

/-- Settles O33: a unit in word 0 whose result is the one texel with the unit's own alpha. -/
theorem raw4Completes : Obligations.Raw4Completes :=
  ⟨by decide, fun _ _ => exec_texel_completes_or_faults (i := .raw4) (by decide) (by decide) (fun _ _ => rfl)
    raw4Texel_toNat⟩

/-- Settles O35: the completion keeps each other word with its mark, and reading it is then the rule of every `OUT`
read while not busy (R38). -/
theorem texelCommandKeepsOtherWords : Obligations.TexelCommandKeepsOtherWords := by
  intro i s t hi hb h
  obtain ⟨p, hp⟩ := busy_eq_true.mp hb
  obtain ⟨f, hf⟩ := commandResult_eq_texelWritten hi
  have hout : t.out = texelWritten (f p.snap) s.out := exec_texel_out hf hp h
  have hidle : t.busy = false := by
    obtain ⟨-, -, rfl⟩ := exec_next_of_pending hp h
    exact complete_busy ..
  refine ⟨by rw [hout, texelWritten_zero], fun j hj => ?_⟩
  have hkept : t.out[j] = s.out[j] := by rw [hout, texelWritten_other _ _ hj]
  obtain ⟨-, hunwritten, hwritten⟩ := readOutput j t
  rw [hkept] at hunwritten hwritten
  exact ⟨by rw [hkept], by rw [hkept], hwritten hidle, hunwritten hidle⟩

end Sys2Proof.Proofs
end

section
/-! PROOFS. The priority of protocol violations (60_exceptions.md R112): at each register of the window, the first entry
of R112's list that applies, against what the access does there (20_memory.md R29 to R39). -/

namespace Sys2Proof

/-- `Decode` answers `RESERVED` for no word but those with a reserved bit set (R55, R56). -/
theorem decode_eq_reserved {w : Word} : decode w = .reserved ↔ 16 ≤ w.toNat := by
  have key : ∀ n : Fin 16, decode (BitVec.ofNat 32 n.val) ≠ .reserved := by decide
  refine ⟨fun h => ?_, decode_reserved⟩
  by_contra hw
  obtain ⟨n, rfl⟩ := word_of_lt (Nat.lt_of_not_le hw)
  exact key n h

end Sys2Proof

namespace Sys2Proof.Machine

open Sys2Proof.Claims

/-! ### An access reported by its first violation -/

/-- The outcome is the fault of the violation reported, and goes on when none is. -/
def Reports (o : Host.Outcome State Fault Refusal) (v : Option Fault) : Prop :=
  (∀ f, v = some f → o = .fault f) ∧ (v = none → ∃ t, o = .next t)

theorem reports_fault (f : Fault) : Reports (.fault f) (some f) := ⟨by simp, by simp⟩

theorem reports_next (t : State) : Reports (.next t) none := ⟨by simp, by simp⟩

/-- A condition tested first by the access and listed first in the order. -/
theorem reports_ite {o : Host.Outcome State Fault Refusal} {v : Option Fault} (b : Bool) (f : Fault)
    (h : Reports o v) : Reports (if b then .fault f else o) (if b then some f else v) := by
  cases b with
  | true => exact reports_fault f
  | false => exact h

/-- A marked word's read and `ReadUnwritten`, the last entry of the reads. -/
theorem reports_read_mark (b : Bool) (t : State) :
    Reports (if b then .next t else .fault .readUnwritten) (if b then none else some .readUnwritten) := by
  cases b with
  | true => exact reports_next t
  | false => exact reports_fault .readUnwritten

/-! ### The offsets of the window (R29) -/

/-- The registers an aligned access can select, by offset (R29, R30). -/
theorem aligned_cases {off : Offset} {n : Nat} (ha : aligned off n = true) :
    n = 4 ∧ ((∃ k : Fin 4, off = BitVec.ofNat 7 (4 * k.val)) ∨ off = 0x10 ∨ off = 0x14 ∨ windowReg off = .reserved ∨
      ∃ j : Fin 16, off = BitVec.ofNat 7 (0x40 + 4 * j.val)) := by
  have key : ∀ off : Offset, off.toNat % 4 = 0 → (∃ k : Fin 4, off = BitVec.ofNat 7 (4 * k.val)) ∨ off = 0x10 ∨
      off = 0x14 ∨ windowReg off = .reserved ∨ ∃ j : Fin 16, off = BitVec.ofNat 7 (0x40 + 4 * j.val) := by decide
  obtain ⟨hn, h4⟩ := aligned_true.mp ha
  exact ⟨hn, key off h4⟩

theorem input_offset_toNat (k : Fin 4) : (BitVec.ofNat 7 (4 * k.val)).toNat = 4 * k.val := by
  revert k; decide

theorem output_offset_toNat (j : Fin 16) : (BitVec.ofNat 7 (0x40 + 4 * j.val)).toNat = 0x40 + 4 * j.val := by
  revert j; decide

/-! ### The two violations every access is tested for first (R30, R37) -/

theorem firstViolation_of_not_aligned {off : Offset} {n : Nat} (h : aligned off n = false) (rest : List (Bool × Fault)) :
    firstViolation ((n != 4 || off.toNat % 4 != 0, .badAccess) :: rest) = some .badAccess := by
  have hbad : (n != 4 || off.toNat % 4 != 0) = true := by simpa using aligned_false.mp h
  rw [firstViolation, if_pos hbad]

theorem firstViolation_of_reserved {off : Offset} {n : Nat} (ha : aligned off n = true) (hr : windowReg off = .reserved)
    (rest : List (Bool × Fault)) :
    firstViolation ((n != 4 || off.toNat % 4 != 0, .badAccess) ::
      (decide (0x18 ≤ off.toNat ∧ off.toNat < 0x40), .reservedOffset) :: rest) = some .reservedOffset := by
  obtain ⟨rfl, h4⟩ := aligned_true.mp ha
  have hrange : 0x18 ≤ off.toNat ∧ off.toNat < 0x40 := by have := windowReg_eq_reserved.mp hr; omega
  simp [firstViolation, h4, hrange]

/-! ### The first violation of a read, by register -/

theorem unwrittenAt_input (k : Fin 4) (s : State) : unwrittenAt (4 * k.val) s = !s.inReg[k].written := by
  have hlow : 4 * k.val < 0x10 := by omega
  simp [unwrittenAt, hlow]

theorem unwrittenAt_output (j : Fin 16) (s : State) : unwrittenAt (0x40 + 4 * j.val) s = !s.out[j].written := by
  have hin : ¬0x40 + 4 * j.val < 0x10 := by omega
  have hcmd : ¬0x40 + 4 * j.val < 0x14 := by omega
  have hword : (0x40 + 4 * j.val) / 4 - 16 = j.val := by omega
  simp [unwrittenAt, hin, hcmd, hword, -Nat.not_lt]

theorem firstViolation_read_input (k : Fin 4) (s : State) :
    firstViolation (readViolations (4 * k.val) 4 s) = if s.inReg[k].written then none else some .readUnwritten := by
  have hreserved : ¬0x18 ≤ 4 * k.val := by omega
  have hout : ¬0x40 ≤ 4 * k.val := by omega
  rw [readViolations, unwrittenAt_input]
  cases s.inReg[k].written <;> simp [firstViolation, hreserved, hout]

theorem firstViolation_read_cmd (s : State) :
    firstViolation (readViolations 0x10 4 s) = if s.cmd.written then none else some .readUnwritten := by
  cases hw : s.cmd.written <;> simp [readViolations, firstViolation, unwrittenAt, hw]

theorem firstViolation_read_status (s : State) : firstViolation (readViolations 0x14 4 s) = none := by
  simp [readViolations, firstViolation, unwrittenAt]

theorem firstViolation_read_output (j : Fin 16) (s : State) :
    firstViolation (readViolations (0x40 + 4 * j.val) 4 s) =
      if s.busy then some .readWhileBusy else if s.out[j].written then none else some .readUnwritten := by
  rw [readViolations, unwrittenAt_output]
  cases s.out[j].written <;> simp [firstViolation]

/-- A host read is what its first violation says (R112). -/
theorem hostEvent_read_reports (off : Offset) (n : Nat) (s : State) :
    Reports (hostEvent (.rd off n) s) (firstViolation (readViolations off.toNat n s)) := by
  cases ha : aligned off n with
  | false =>
    rw [hostEvent_read_not_aligned ha, readViolations, firstViolation_of_not_aligned ha]
    exact reports_fault _
  | true =>
    obtain ⟨rfl, ⟨k, rfl⟩ | rfl | rfl | hr | ⟨j, rfl⟩⟩ := aligned_cases ha
    · rw [hostEvent_read_input, input_offset_toNat, firstViolation_read_input]
      exact reports_read_mark ..
    · exact hostEvent_read_cmd s ▸ firstViolation_read_cmd s ▸ reports_read_mark ..
    · exact firstViolation_read_status s ▸ reports_next _
    · rw [hostEvent_read_reserved ha hr, readViolations, firstViolation_of_reserved ha hr]
      exact reports_fault _
    · rw [hostEvent_read_output, output_offset_toNat, firstViolation_read_output]
      exact reports_ite _ _ (reports_read_mark ..)

/-! ### The first violation of a write, by register -/

theorem firstViolation_write_input (k : Fin 4) (v : Word) (s : State) :
    firstViolation (writeViolations (4 * k.val) 4 v s) = if s.busy then some .writeWhileBusy else none := by
  have hreserved : ¬0x18 ≤ 4 * k.val := by omega
  have hreadOnly : ¬(4 * k.val = 0x14 ∨ 0x40 ≤ 4 * k.val) := by omega
  have hcmd : ¬4 * k.val = 0x10 := by omega
  simp [writeViolations, firstViolation, hreserved, hreadOnly, hcmd]

theorem firstViolation_write_cmd (v : Word) (s : State) :
    firstViolation (writeViolations 0x10 4 v s) =
      if s.busy then some .writeWhileBusy else if 16 ≤ v.toNat then some .reservedCommand else none := by
  simp [writeViolations, firstViolation]

theorem firstViolation_write_status (v : Word) (s : State) :
    firstViolation (writeViolations 0x14 4 v s) = some .writeReadOnly := by
  simp [writeViolations, firstViolation]

theorem firstViolation_write_output (j : Fin 16) (v : Word) (s : State) :
    firstViolation (writeViolations (0x40 + 4 * j.val) 4 v s) = some .writeReadOnly := by
  simp [writeViolations, firstViolation]

/-- A `CMD` write while not busy has the one violation left, a reserved word (R55): every other word is a command or the
architected error (R56). -/
theorem writeCommand_reports {s : State} (hb : s.busy = false) (v : Word) :
    Reports (writeCommand v s) (if 16 ≤ v.toNat then some .reservedCommand else none) := by
  simp only [← decode_eq_reserved]
  cases hd : decode v with
  | reserved => exact writeCommand_reserved hd s ▸ reports_fault _
  | unsupported u => exact writeCommand_unsupported hd s ▸ reports_next _
  | command i =>
    rw [writeCommand_command hd, exec_of_none (busy_eq_false.mp hb)]
    exact reports_next _

/-- A host write is what its first violation says (R112). -/
theorem hostEvent_write_reports (off : Offset) (n : Nat) (v : Word) (s : State) :
    Reports (hostEvent (.wr off n v) s) (firstViolation (writeViolations off.toNat n v s)) := by
  cases ha : aligned off n with
  | false =>
    rw [hostEvent_write_not_aligned ha, writeViolations, firstViolation_of_not_aligned ha]
    exact reports_fault _
  | true =>
    obtain ⟨rfl, ⟨k, rfl⟩ | rfl | rfl | hr | ⟨j, rfl⟩⟩ := aligned_cases ha
    · rw [hostEvent_write_input, input_offset_toNat, firstViolation_write_input]
      exact reports_ite _ _ (reports_next _)
    · refine firstViolation_write_cmd v s ▸ ?_
      cases hb : s.busy with
      | true => exact hostEvent_write_cmd_busy v hb ▸ reports_fault _
      | false => exact hostEvent_write_cmd_not_busy v hb ▸ writeCommand_reports hb v
    · exact firstViolation_write_status v s ▸ reports_fault _
    · rw [hostEvent_write_reserved ha hr, writeViolations, firstViolation_of_reserved ha hr]
      exact reports_fault _
    · rw [hostEvent_write_output, output_offset_toNat, firstViolation_write_output]
      exact reports_fault _

/-- A write of variant 6 or 7 at the offset of `CMD` that goes on is the architected error, the last entry of R112. -/
theorem write_cmd_unsupported_sets_err {off : Offset} {n : Nat} {v : Word} {s t : State}
    (h : hostEvent (.wr off n v) s = .next t) (hoff : off.toNat = 0x10) (hv : 6 ≤ v.toNat % 8) :
    t.err = true ∧ t.pend = none := by
  have hcmd : windowReg off = .cmd := windowReg_eq_cmd.mpr (by omega)
  obtain ⟨hp, -, ⟨k, hk, -⟩ | ⟨-, ⟨i, hd, -⟩ | ⟨u, -, rfl⟩⟩⟩ := hostWrite_cases h
  · simp [hcmd] at hk
  · have hlt : v.toNat < 16 := Nat.lt_of_not_le fun hge => by simp [decode_reserved hge] at hd
    simp [decode_unsupported hlt hv] at hd
  · exact ⟨rfl, hp⟩

end Sys2Proof.Machine

namespace Sys2Proof.Proofs

open Sys2Proof.Machine Sys2Proof.Claims

/-- Settles O11: each kind of access reports its first violation, register by register, and a write that has none is
one of those `hostWrite_cases` lists. -/
theorem violationPriority : Obligations.ViolationPriority := by
  intro off n v s
  obtain ⟨hrf, hrn⟩ := hostEvent_read_reports off n s
  obtain ⟨hwf, hwn⟩ := hostEvent_write_reports off n v s
  refine ⟨hrf, hrn, hwf, fun hnone => ?_⟩
  obtain ⟨t, ht⟩ := hwn hnone
  exact ⟨t, ht, write_cmd_unsupported_sets_err ht⟩

end Sys2Proof.Proofs
end

section
/-! PROOFS. The reset event (70_reset_and_hazards.md R119, R120): the state it leaves, as later events see it. -/

namespace Sys2Proof.Machine

/-! ### The state the reset event leaves -/

@[simp] theorem hostEvent_reset (s : State) : hostEvent .reset s = .next s.assertReset := rfl

@[simp] theorem assertReset_statusWord (s : State) : s.assertReset.statusWord = 0 :=
  BitVec.eq_of_toNat_eq (by simp [statusWord_toNat])

theorem assertReset_inReg_written (s : State) (k : Fin 4) : s.assertReset.inReg[k].written = false := by
  simp [RegWord.unwritten]

theorem assertReset_out_written (s : State) (j : Fin 16) : s.assertReset.out[j].written = false := by
  simp [RegWord.unwritten]

end Sys2Proof.Machine

namespace Sys2Proof.Proofs

open Sys2Proof.Machine Sys2Proof.Claims

/-- Settles O49: `hostEvent` takes the reset with no guard on the state. -/
theorem resetEvent : Obligations.ResetEvent := fun s =>
  ⟨s.assertReset, hostEvent_reset s, assertReset_statusWord s, rfl, rfl, rfl, rfl, assertReset_inReg_written s,
    assertReset_out_written s⟩

/-- Settles O50: the reset drops the command in flight, so no completion follows, and unmarks every word of `OUT`,
so each read is the second case of `readOutput`. -/
theorem resetAbandonsPending : Obligations.ResetAbandonsPending := by
  intro s t _ h
  obtain rfl : s.assertReset = t := by simpa using h
  have hidle : s.assertReset.busy = false := assertReset_busy s
  refine ⟨turn_ne_completion_of_none (assertReset_pend s), rfl, rfl, hidle, fun j => ?_⟩
  obtain ⟨-, hunwritten, -⟩ := readOutput j s.assertReset
  exact hunwritten hidle (assertReset_out_written s j)

end Sys2Proof.Proofs
end

section
/-! PROOFS. `Decode` and `Encode` as inverses of each other (30_encoding.md R51 to R56), and the bit that a DXT command
ignores (R53). -/

namespace Sys2Proof

/-- The fields of a word built from an `ALPHA` bit and a variant (R51). -/
theorem word_of_fields (a : Bool) (v : BitVec 3) :
    (0#28 ++ BitVec.ofBool a ++ v).toNat < 16 ∧ (0#28 ++ BitVec.ofBool a ++ v).toNat % 8 = v.toNat ∧
      wordAlpha (0#28 ++ BitVec.ofBool a ++ v) = a := by
  revert a v; decide

/-- The word of a command decodes to that command, `ALPHA` bit included. -/
@[simp] theorem decode_encode (i : Instr) : decode (encode i) = .command i := by
  obtain ⟨hlt, hvariant, halpha⟩ := word_of_fields i.alphaBit i.variant
  exact decode_of_fields i hlt hvariant halpha

/-- Inverting bit 3 inverts the `ALPHA` bit and keeps the variant (R51). -/
theorem word_of_fields_xor_eight (a : Bool) (v : BitVec 3) :
    (0#28 ++ BitVec.ofBool a ++ v) ^^^ 8 = 0#28 ++ BitVec.ofBool (!a) ++ v := by
  revert a v; decide

end Sys2Proof

namespace Sys2Proof.Machine

/-- A DXT command holds its `ALPHA` bit, on which nothing else of it depends (R53). -/
theorem dxt_alpha_only {c : Bool → Instr} (hc : c ∈ [Instr.dxt1, .dxt2, .dxt3, .dxt4, .dxt5]) (a b : Bool) :
    (c a).alphaBit = a ∧ (c a).variant = (c b).variant ∧ unitBytes (c a) = unitBytes (c b) ∧
      commandResult (c a) = commandResult (c b) := by
  simp only [List.mem_cons, List.not_mem_nil, or_false] at hc
  obtain rfl | rfl | rfl | rfl | rfl := hc
  all_goals exact ⟨rfl, rfl, rfl, rfl⟩

/-- The words of the two forms of a DXT command differ in bit 3 alone. -/
theorem encode_dxt_xor_eight {c : Bool → Instr} (hc : c ∈ [Instr.dxt1, .dxt2, .dxt3, .dxt4, .dxt5]) (a : Bool) :
    encode (c a) ^^^ 8 = encode (c !a) := by
  obtain ⟨halpha, hvariant, -, -⟩ := dxt_alpha_only hc a !a
  obtain ⟨halpha', -, -, -⟩ := dxt_alpha_only hc (!a) a
  rw [encode, encode, halpha, halpha', hvariant, word_of_fields_xor_eight]

end Sys2Proof.Machine

namespace Sys2Proof.Proofs

open Sys2Proof.Machine Sys2Proof.Claims

/-- Settles O3: a command's word decodes to it by its fields, and no other word does. -/
theorem decodeInvertsEncode : Obligations.DecodeInvertsEncode := by
  refine fun i w => ⟨eq_encode_of_decode, ?_⟩
  rintro rfl
  exact decode_encode i

/-- Settles O5: inverting bit 3 of the word inverts the one field the two forms differ in, and neither the unit nor the
result depends on it. -/
theorem alphaBitIgnoredByDxt : Obligations.AlphaBitIgnoredByDxt := by
  refine fun c hc => ⟨fun w a hd => ?_, fun a b s snap n => ?_⟩
  · rw [eq_encode_of_decode hd, encode_dxt_xor_eight hc, decode_encode]
  · obtain ⟨-, -, hunit, hresult⟩ := dxt_alpha_only hc a b
    exact exec_eq_of_unitBytes_of_commandResult hunit hresult s snap n

/-- Settles O1: each word of R52's table is the encoding of its row's command. -/
theorem commandWordsDecode : Obligations.CommandWordsDecode :=
  ⟨decode_encode .raw3, decode_encode .raw4, decode_encode (.dxt1 false), decode_encode (.dxt1 true),
    decode_encode (.dxt2 false), decode_encode (.dxt2 true), decode_encode (.dxt3 false), decode_encode (.dxt3 true),
    decode_encode (.dxt4 false), decode_encode (.dxt4 true), decode_encode (.dxt5 false), decode_encode (.dxt5 true)⟩

end Sys2Proof.Proofs
end

section
/-! PROOFS. What one step does to the block's registers, by event (10_state.md R22 to R24, 20_memory.md R32 to R41,
70_reset_and_hazards.md R119), and the invariants that follow. -/

namespace Sys2Proof.Machine

open Sys2Proof.Claims

/-! ### A step, by what it does to the registers -/

/-- The block's registers are the same, and so is the command in flight but for the turns left of its `LAT`. -/
structure State.SameBlock (s t : State) : Prop where
  inReg : t.inReg = s.inReg
  cmd : t.cmd = s.cmd
  done : t.done = s.done
  err : t.err = s.err
  out : t.out = s.out
  pend : ∃ n : Pend → Nat, t.pend = s.pend.map fun p => { p with wait := n p }

/-- The start of a host turn, and the turn of an idle host, are no event of the block. -/
theorem sameBlock_tick (s : State) : s.SameBlock s.tick := ⟨rfl, rfl, rfl, rfl, rfl, _, tick_pend s⟩

theorem State.SameBlock.busy {s t : State} (h : s.SameBlock t) : t.busy = s.busy := by
  obtain ⟨n, hn⟩ := h.pend
  simp [State.busy, hn]

theorem State.SameBlock.pend_eq_some {s t : State} (h : s.SameBlock t) {q : Pend} (hq : t.pend = some q) :
    ∃ p, s.pend = some p ∧ q.op = p.op ∧ q.snap = p.snap := by
  obtain ⟨n, hn⟩ := h.pend
  rw [hn, Option.map_eq_some_iff] at hq
  obtain ⟨p, hp, rfl⟩ := hq
  exact ⟨p, hp, rfl, rfl⟩

/-- Every step completes the command in flight, leaves the block alone, writes a word of `IN`, issues a command, raises
the architected error, or resets; the three writes only with nothing in flight. -/
theorem step_block_cases {s t : State} (h : step s = .next t) :
    (∃ p, s.pend = some p ∧ p.wait = 0 ∧ t = s.complete (commandResult p.op p.snap s.out)) ∨
    s.SameBlock t ∨
    (∃ off n v k rest, s.pend = none ∧ HostNext s (.wr off n v) ∧ off.toNat < 0x10 ∧
      t = State.writeIn { s with todo := rest } k v) ∨
    (∃ w i rest, s.pend = none ∧ HostNext s (.wr 0x10 4 w) ∧ decode w = .command i ∧
      t = State.issue { s with todo := rest } i) ∨
    (∃ w v rest, s.pend = none ∧ HostNext s (.wr 0x10 4 w) ∧ decode w = .unsupported v ∧
      t = State.raiseUnsupported { s with todo := rest } w) ∨
    (HostNext s .reset ∧ ∃ u : State, t = u.assertReset) := by
  obtain ⟨p, hp, hw, -, rfl⟩ | ⟨a, rest, hwait, htodo, hevent⟩ | ⟨-, -, rfl⟩ := step_cases h
  · exact .inl ⟨p, hp, hw, rfl⟩
  · have hnext : HostNext s a := ⟨hwait, by rw [htodo, List.head?_cons]⟩
    have hidle : (s.takeStmt rest).pend = none → s.pend = none := tick_pend_eq_none.mp
    have hsame : s.SameBlock (s.takeStmt rest) := ⟨rfl, rfl, rfl, rfl, rfl, _, tick_pend s⟩
    obtain ⟨off, n, v, rfl, -, rfl⟩ | ⟨off, n, v, k, rfl, hp, ha, hk, rfl⟩ | ⟨off, n, w, i, rfl, hp, ha, hr, hd, rfl⟩ |
      ⟨off, n, w, v, rfl, hp, ha, hr, hd, rfl⟩ | ⟨rfl, -, rfl⟩ | ⟨rfl, -, rfl⟩ | ⟨rfl, rfl⟩ := hostEvent_cases hevent
    · exact .inr (.inl { hsame with })
    · have hoff : off.toNat / 4 = k.val := windowReg_eq_input.mp hk
      rw [takeStmt_of_none (hidle hp)]
      exact .inr (.inr (.inl ⟨off, n, v, k, rest, hidle hp, hnext, by omega, rfl⟩))
    · obtain ⟨rfl, rfl⟩ := off_of_cmd ha hr
      rw [takeStmt_of_none (hidle hp)]
      exact .inr (.inr (.inr (.inl ⟨w, i, rest, hidle hp, hnext, hd, rfl⟩)))
    · obtain ⟨rfl, rfl⟩ := off_of_cmd ha hr
      rw [takeStmt_of_none (hidle hp)]
      exact .inr (.inr (.inr (.inr (.inl ⟨w, v, rest, hidle hp, hnext, hd, rfl⟩))))
    · exact .inr (.inl { hsame with })
    · exact .inr (.inl { hsame with })
    · exact .inr (.inr (.inr (.inr (.inr ⟨hnext, _, rfl⟩))))
  · exact .inr (.inl (sameBlock_tick s))

/-- The step of an unsupported word's `CMD` write goes on only with the error raised. -/
theorem step_write_unsupported_err {s t : State} {w : Word} {v : BitVec 3} (h : step s = .next t)
    (hn : HostNext s (.wr 0x10 4 w)) (hd : decode w = .unsupported v) : t.err = true := by
  obtain ⟨rest, hs⟩ := step_of_hostNext hn
  rw [hs] at h
  cases hb : (s.takeStmt rest).busy with
  | true =>
    rw [hostEvent_write_cmd_busy w hb] at h
    cases h
  | false =>
    rw [hostEvent_write_cmd_not_busy w hb, writeCommand_unsupported hd] at h
    cases h
    rfl

/-! ### What a command's result leaves written in `OUT` (R87, R105) -/

/-- The result of every block command is a whole tile. -/
theorem commandResult_eq_tileWritten {i : Instr} (h3 : i ≠ .raw3) (h4 : i ≠ .raw4) :
    ∃ f : InReg → Fin 16 → Word, ∀ r o, commandResult i r o = tileWritten (f r) := by
  cases i with
  | raw3 => exact absurd rfl h3
  | raw4 => exact absurd rfl h4
  | dxt1 a => exact ⟨colorTexel .low true, fun _ _ => rfl⟩
  | dxt2 a => exact ⟨explicitTexel, fun _ _ => rfl⟩
  | dxt3 a => exact ⟨explicitTexel, fun _ _ => rfl⟩
  | dxt4 a => exact ⟨interpTexel, fun _ _ => rfl⟩
  | dxt5 a => exact ⟨interpTexel, fun _ _ => rfl⟩

/-- A block command writes every word of `OUT`. -/
theorem commandResult_block_written {i : Instr} (h3 : i ≠ .raw3) (h4 : i ≠ .raw4) (r : InReg) (o : OutReg) (k : Fin 16) :
    (commandResult i r o)[k].written = true := by
  obtain ⟨f, hf⟩ := commandResult_eq_tileWritten h3 h4
  rw [hf, Fin.getElem_fin, tileWritten_getElem]

/-- A texel command keeps every word of `OUT` but the first. -/
theorem commandResult_texel_other {i : Instr} (hi : i = .raw3 ∨ i = .raw4) (r : InReg) (o : OutReg) {j : Fin 16}
    (hj : j ≠ 0) : (commandResult i r o)[j] = o[j] := by
  obtain ⟨f, hf⟩ := commandResult_eq_texelWritten hi
  rw [hf, texelWritten_other _ _ hj]

/-- Every command writes `OUT.t[0]`. -/
theorem commandResult_zero_written (i : Instr) (r : InReg) (o : OutReg) : (commandResult i r o)[0].written = true := by
  by_cases hi : i = .raw3 ∨ i = .raw4
  · obtain ⟨f, hf⟩ := commandResult_eq_texelWritten hi
    rw [hf, texelWritten_zero]
  · rw [not_or] at hi
    exact commandResult_block_written hi.1 hi.2 r o 0

/-! ### The invariant, event by event -/

theorem assertReset_inv (s : State) : s.assertReset.Inv where
  busy_flags h := by cases h
  done_err h := by cases h.1
  pend_cmd p h := by cases h
  pend_snap p h := by cases h
  cmd_unwritten _ := ⟨rfl, rfl, rfl⟩
  cmd_not_reserved h := by cases h
  cmd_unsupported h := by cases h
  cmd_command h := by cases h
  done_out h := by cases h
  out_marks j _ h := by rw [assertReset_out_written] at h; cases h

section
variable {s t : State}

/-- The invariant speaks of the block's registers alone, and not of `LAT`. -/
theorem State.Inv.of_sameBlock (hs : s.Inv) (h : s.SameBlock t) : t.Inv where
  busy_flags := by rw [h.busy, h.done, h.err]; exact hs.busy_flags
  done_err := by rw [h.done, h.err]; exact hs.done_err
  pend_cmd q hq := by
    obtain ⟨p, hp, hop, -⟩ := h.pend_eq_some hq
    rw [h.cmd, hop, hs.pend_cmd p hp]
  pend_snap q hq := by
    obtain ⟨p, hp, -, hsnap⟩ := h.pend_eq_some hq
    rw [h.inReg, hsnap, hs.pend_snap p hp]
  cmd_unwritten := by rw [h.cmd, h.busy, h.done, h.err]; exact hs.cmd_unwritten
  cmd_not_reserved := by rw [h.cmd]; exact hs.cmd_not_reserved
  cmd_unsupported := by rw [h.cmd, h.busy, h.done, h.err]; exact hs.cmd_unsupported
  cmd_command := by rw [h.cmd, h.busy, h.done, h.err]; exact hs.cmd_command
  done_out := by rw [h.done, h.cmd, h.out]; exact hs.done_out
  out_marks := by rw [h.out]; exact hs.out_marks

/-- A completion turns `BUSY` into `DONE` for the command that `CMD` holds. -/
theorem State.Inv.complete (hs : s.Inv) {p : Pend} (hp : s.pend = some p) :
    (s.complete (commandResult p.op p.snap s.out)).Inv where
  busy_flags h := by cases h
  done_err := by
    obtain ⟨-, herr⟩ := hs.busy_flags (busy_eq_true.mpr ⟨p, hp⟩)
    simp [herr]
  pend_cmd q h := by cases h
  pend_snap q h := by cases h
  cmd_unwritten h := by simp [hs.pend_cmd p hp] at h
  cmd_not_reserved := hs.cmd_not_reserved
  cmd_unsupported _ v h := by simp [hs.pend_cmd p hp] at h
  cmd_command _ i _ := by
    obtain ⟨-, herr⟩ := hs.busy_flags (busy_eq_true.mpr ⟨p, hp⟩)
    exact ⟨herr, .inr rfl⟩
  done_out _ := by
    refine ⟨commandResult_zero_written .., fun i hi h3 h4 k => ?_⟩
    obtain rfl : p.op = i := by simpa [hs.pend_cmd p hp] using hi
    exact commandResult_block_written h3 h4 ..
  out_marks j hj hw k := by
    rw [complete_out] at hw ⊢
    by_cases hi : p.op = .raw3 ∨ p.op = .raw4
    · by_cases hk : k = 0
      · rw [hk]; exact commandResult_zero_written ..
      · rw [commandResult_texel_other hi _ _ hj] at hw
        rw [commandResult_texel_other hi _ _ hk]
        exact hs.out_marks j hj hw k
    · rw [not_or] at hi
      exact commandResult_block_written hi.1 hi.2 ..

/-- With nothing in flight no clause speaks of `IN`. -/
theorem State.Inv.writeIn (hs : s.Inv) (hp : s.pend = none) (k : Fin 4) (v : Word) : (s.writeIn k v).Inv :=
  { hs with pend_snap := fun p h => by simp [hp] at h }

/-- An issue writes `CMD` and the snapshot that the command in flight is to agree with. -/
theorem State.Inv.issue (hs : s.Inv) (i : Instr) : (s.issue i).Inv where
  busy_flags _ := ⟨rfl, rfl⟩
  done_err h := by cases h.1
  pend_cmd p h := by cases h; rfl
  pend_snap p h := by cases h; rfl
  cmd_unwritten h := by cases h
  cmd_not_reserved _ := by simp
  cmd_unsupported _ v h := by simp at h
  cmd_command _ j _ := ⟨rfl, .inl rfl⟩
  done_out h := by cases h
  out_marks := hs.out_marks

/-- The architected error leaves `ERR` alone set and an unsupported word in `CMD`. -/
theorem State.Inv.raiseUnsupported (hs : s.Inv) (hp : s.pend = none) {w : Word} {v : BitVec 3}
    (hd : decode w = .unsupported v) : (s.raiseUnsupported w).Inv where
  busy_flags h := by simp [busy_eq_false.mpr hp] at h
  done_err h := by cases h.1
  pend_cmd p h := by simp [hp] at h
  pend_snap p h := by simp [hp] at h
  cmd_unwritten h := by cases h
  cmd_not_reserved _ := by simp [hd]
  cmd_unsupported _ _ _ := ⟨rfl, busy_eq_false.mpr hp, rfl⟩
  cmd_command _ i h := by simp [hd] at h
  done_out h := by cases h
  out_marks := hs.out_marks

end

/-- The host's statements are no part of the invariant. -/
theorem State.Inv.withTodo {s : State} (hs : s.Inv) (rest : List HostStmt) : State.Inv { s with todo := rest } :=
  { hs with }

end Sys2Proof.Machine

namespace Sys2Proof.Proofs

open Sys2Proof.Machine Sys2Proof.Claims

/-- Settles O53: each event that is no reset changes only registers it writes, and the writes come with nothing in
flight. -/
theorem registersChangeOnlyByTheirWriters : Obligations.RegistersChangeOnlyByTheirWriters := by
  intro s t h hreset
  obtain ⟨p, hp, hw, rfl⟩ | hsame | ⟨off, n, v, k, rest, hp, hn, hoff, rfl⟩ | ⟨w, _, rest, hp, hn, -, rfl⟩ |
    ⟨w, _, rest, hp, hn, -, rfl⟩ | ⟨hr, -⟩ := step_block_cases h
  case inl =>
    have hc : Completes s := ⟨p, hp, hw⟩
    simp [hc]
  case inr.inl =>
    refine ⟨absurd hsame.inReg, absurd hsame.cmd, absurd hsame.out, absurd hsame.done, absurd hsame.err,
      absurd hsame.busy, fun p q hp hq => ?_⟩
    obtain ⟨p', hp', hop, hsnap⟩ := hsame.pend_eq_some hq
    obtain rfl : p = p' := Option.some.inj (hp.symm.trans hp')
    exact ⟨hop, hsnap⟩
  case inr.inr.inl =>
    exact ⟨fun _ => ⟨hp, off, n, v, hn, hoff⟩, absurd rfl, absurd rfl, absurd rfl, absurd rfl, absurd rfl, by simp [hp]⟩
  case inr.inr.inr.inl | inr.inr.inr.inr.inl =>
    have hwrite : s.pend = none ∧ ∃ w, HostNext s (.wr 0x10 4 w) := ⟨hp, w, hn⟩
    exact ⟨absurd rfl, fun _ => hwrite, absurd rfl, fun _ => .inr hwrite, fun _ => hwrite, fun _ => .inr hwrite,
      by simp [hp]⟩
  case inr.inr.inr.inr.inr => exact absurd hr hreset

/-- Settles O55: one lemma for each event of `step_block_cases`. -/
theorem stepKeepsInv : Obligations.StepKeepsInv := by
  intro s t hs h
  obtain ⟨p, hp, -, rfl⟩ | hsame | ⟨_, _, v, k, rest, hp, -, -, rfl⟩ | ⟨w, i, rest, -, -, -, rfl⟩ |
    ⟨w, v, rest, hp, -, hd, rfl⟩ | ⟨-, u, rfl⟩ := step_block_cases h
  · exact hs.complete hp
  · exact hs.of_sameBlock hsame
  · exact (hs.withTodo rest).writeIn hp k v
  · exact (hs.withTodo rest).issue i
  · exact (hs.withTodo rest).raiseUnsupported hp hd
  · exact assertReset_inv u

/-- Settles O54: the reset state is what the reset event leaves of it. -/
theorem invAtReset : Obligations.InvAtReset :=
  assertReset_inv State.reset

/-- Settles O22: of the events of `step_block_cases` only an issue and a reset clear `ERR`. -/
theorem errorStaysUntilNextCommand : Obligations.ErrorStaysUntilNextCommand := by
  refine fun s t h hs => ⟨fun ht => ?_, fun w v => step_write_unsupported_err h⟩
  obtain ⟨p, -, -, rfl⟩ | hsame | ⟨_, _, _, _, _, -, -, -, rfl⟩ | ⟨w, i, -, -, hn, hd, -⟩ | ⟨_, _, _, -, -, -, rfl⟩ |
    ⟨hn, -⟩ := step_block_cases h
  case inr.inr.inr.inl => exact .inl ⟨w, i, hn, hd⟩
  case inr.inr.inr.inr.inr => exact .inr hn
  case inr.inl => simp [hsame.err, hs] at ht
  all_goals simp [hs] at ht

end Sys2Proof.Proofs
end

section
/-! PROOFS. What a completion depends on: the bytes of its unit (30_encoding.md R57, R58), the marks of the words that
hold them (10_state.md R21) and `OUT`, never the live `IN` (R18); and the tile a block command leaves (41_dxt1.md R87). -/

namespace Sys2Proof.Machine

open Sys2Proof.Claims

/-! ### The unit (R57, R58) -/

theorem unitLength_eq_unitBytes (i : Instr) : unitLength i = unitBytes i := by
  cases i <;> rfl

/-- The operands are unwritten exactly when some word that holds a byte of the unit is. -/
theorem operandsWritten_eq_false {i : Instr} {snap : InReg} :
    operandsWritten i snap = false ↔ ∃ k : Fin 4, 4 * k.val < unitLength i ∧ snap[k].written = false := by
  rw [← Bool.not_eq_true, operandsWritten_iff, unitLength_eq_unitBytes]
  simp [readsWord]

/-- The operands are written or not by the marks of the words that hold the unit. -/
theorem operandsWritten_congr {i : Instr} {r r' : InReg}
    (h : ∀ k : Fin 4, readsWord i k = true → r[k].written = r'[k].written) : operandsWritten i r = operandsWritten i r' := by
  rw [Bool.eq_iff_iff, operandsWritten_iff, operandsWritten_iff]
  exact forall_congr' fun k => imp_congr_right fun hk => by rw [h k hk]

theorem inByte_congr {r r' : InReg} (k : Fin 16) (h : byteAt r k.val = byteAt r' k.val) : inByte r k = inByte r' k := by
  rw [← BitVec.toNat_inj, inByte_toNat, inByte_toNat, h]

/-! ### Results from the unit's bytes -/

/-- A colour texel is computed from the eight bytes of its sub-block (R61). -/
theorem colorTexel_congr {r r' : InReg} {base : ColorBase} (h : ∀ k, colorByte r base k = colorByte r' base k)
    (punch : Bool) : colorTexel base punch r = colorTexel base punch r' := by
  funext j
  simp only [colorTexel, colorC0, colorC1, colorIndex, colorIndices, h]

theorem explicitTexel_congr {r r' : InReg} (h : ∀ k, inByte r k = inByte r' k) : explicitTexel r = explicitTexel r' := by
  have hcolor (k : Fin 8) : colorByte r .high k = colorByte r' .high k := h ⟨8 + k.val, by omega⟩
  funext j
  simp only [explicitTexel, alpha4, alphaNibble, alphaBits, h, colorTexel_congr hcolor]

theorem interpTexel_congr {r r' : InReg} (h : ∀ k, inByte r k = inByte r' k) : interpTexel r = interpTexel r' := by
  have hcolor (k : Fin 8) : colorByte r .high k = colorByte r' .high k := h ⟨8 + k.val, by omega⟩
  funext j
  simp only [interpTexel, alphaInterp, alphaA0, alphaA1, alphaIndex, alphaBits, h, colorTexel_congr hcolor]

/-- The result of a command reads its snapshot at the bytes of its unit alone. -/
theorem commandResult_congr {i : Instr} {r r' : InReg} (h : ∀ b < unitBytes i, byteAt r b = byteAt r' b) (o : OutReg) :
    commandResult i r o = commandResult i r' o := by
  have hbyte (k : Fin 16) (hk : k.val < unitBytes i) : inByte r k = inByte r' k := inByte_congr k (h k.val hk)
  cases i with
  | raw3 =>
    simp only [commandResult, raw3Result, raw3Texel, hbyte 0 (by decide), hbyte 1 (by decide), hbyte 2 (by decide)]
  | raw4 =>
    simp only [commandResult, raw4Result, raw4Texel, hbyte 0 (by decide), hbyte 1 (by decide), hbyte 2 (by decide),
      hbyte 3 (by decide)]
  | dxt1 a =>
    have hcolor (k : Fin 8) : colorByte r .low k = colorByte r' .low k := hbyte ⟨k.val, by omega⟩ k.isLt
    exact congrArg tileWritten (colorTexel_congr hcolor true)
  | dxt2 a => exact congrArg tileWritten (explicitTexel_congr fun k => hbyte k k.isLt)
  | dxt3 a => exact congrArg tileWritten (explicitTexel_congr fun k => hbyte k k.isLt)
  | dxt4 a => exact congrArg tileWritten (interpTexel_congr fun k => hbyte k k.isLt)
  | dxt5 a => exact congrArg tileWritten (interpTexel_congr fun k => hbyte k k.isLt)

end Sys2Proof.Machine

namespace Sys2Proof.Proofs

open Sys2Proof.Machine Sys2Proof.Claims

/-- Settles O40: the marks of the unit's words decide between the completion and the fault. -/
theorem completionFaultsOnUnwrittenOperand : Obligations.CompletionFaultsOnUnwrittenOperand := by
  intro s p hp
  rw [← operandsWritten_eq_false]
  cases hw : operandsWritten p.op p.snap with
  | false => simp [exec_of_unwritten hp hw]
  | true => simp [exec_of_pending hp hw]

/-- Settles O41: neither the operand check nor the result looks beyond the unit. -/
theorem bytesBeyondUnitIgnored : Obligations.BytesBeyondUnitIgnored := by
  intro i s r r' m n h
  rw [unitLength_eq_unitBytes] at h
  have hwritten : operandsWritten i r = operandsWritten i r' := operandsWritten_congr fun k hk =>
    (h (4 * k.val) (of_decide_eq_true hk)).2 k (by omega)
  have hresult : commandResult i r s.out = commandResult i r' s.out :=
    commandResult_congr (fun b hb => (h b hb).1) s.out
  simp only [exec_eq_runCommand, runCommand, if_true, hwritten, hresult]
  rfl

/-- Settles O42: the completed state is `complete` of the state before, whose result is computed from the snapshot. -/
theorem completionIgnoresLiveInput : Obligations.CompletionIgnoresLiveInput := by
  intro s t p r hp h
  obtain ⟨-, hw, rfl⟩ := exec_next_of_pending hp h
  exact exec_of_pending (s := { s with inReg := r }) hp hw

/-- Settles O34: a block command's result is a whole tile, and nothing is in flight after it, so each read is the last
case of `readOutput`. -/
theorem blockTileReadable : Obligations.BlockTileReadable := by
  intro i s t h3 h4 hb h j
  obtain ⟨p, hp⟩ := busy_eq_true.mp hb
  obtain ⟨-, -, rfl⟩ := exec_next_of_pending hp h
  obtain ⟨-, -, hwritten⟩ := readOutput j (s.complete (commandResult i p.snap s.out))
  exact hwritten (complete_busy ..) (commandResult_block_written h3 h4 ..)

end Sys2Proof.Proofs
end

section
/-! PROOFS. The weighted mean (40_color_block.md R82, R83) and the alpha entry it gives a `DXT4` or `DXT5` texel
(43_dxt45.md R95 to R98, R101). -/

namespace Sys2Proof.Machine

open Sys2Proof.Claims

/-- A truncated weighted mean lies between its two arguments. -/
theorem weightedMean_between {k0 k1 d : Nat} (hd : k0 + k1 = d) (hpos : 0 < d) (x y : Nat) :
    min x y ≤ (k0 * x + k1 * y) / d ∧ (k0 * x + k1 * y) / d ≤ max x y := by
  subst hd
  constructor
  · rw [Nat.le_div_iff_mul_le hpos, Nat.mul_comm, Nat.add_mul]
    exact Nat.add_le_add (Nat.mul_le_mul_left k0 (min_le_left x y)) (Nat.mul_le_mul_left k1 (min_le_right x y))
  · refine Nat.div_le_of_le_mul ?_
    rw [Nat.add_mul]
    exact Nat.add_le_add (Nat.mul_le_mul_left k0 (le_max_left x y)) (Nat.mul_le_mul_left k1 (le_max_right x y))

/-- Every alpha entry but the fixed 0 and 255 lies between the endpoints (R101). -/
theorem alphaEntry_between {a0 a1 k : Nat} (hk : k < 8) (h : a1 < a0 ∨ k < 6) :
    min a0 a1 ≤ alphaEntry a0 a1 k ∧ alphaEntry a0 a1 k ≤ max a0 a1 := by
  rw [alphaEntry]
  split_ifs with h0 h1 height hsix hfixed
  · exact ⟨min_le_left .., le_max_left ..⟩
  · exact ⟨min_le_right .., le_max_right ..⟩
  · exact weightedMean_between (by omega) (by decide) a0 a1
  · exact weightedMean_between (by omega) (by decide) a0 a1
  · omega
  · omega

/-- The alpha byte of a texel with its alpha replaced (R67). -/
theorem withAlpha_alpha (alpha : Byte) (col : Word) : (withAlpha alpha col).toNat / 16777216 = alpha.toNat := by
  rw [withAlpha_toNat, Nat.add_mul_div_left _ _ (by decide), Nat.div_eq_of_lt (Nat.mod_lt _ (by decide)), Nat.zero_add]

/-- The alpha byte of an interpolated-alpha texel is its own palette entry. -/
theorem interpTexel_alpha (r : InReg) (j : Fin 16) :
    (interpTexel r j).toNat / 16777216 = alphaEntry (byteAt r 0) (byteAt r 1) (aidx r j.val) := by
  rw [interpTexel, withAlpha_alpha, alphaInterp_toNat]

/-- `DXT4` and `DXT5` leave the same sixteen texels (R100). -/
theorem exec_interp_out {a : Bool} {i : Instr} {s t : State} {p : Pend} (hi : i = .dxt4 a ∨ i = .dxt5 a)
    (hp : s.pend = some p) (h : exec i s = .next t) (j : Fin 16) : t.out[j] = ⟨interpTexel p.snap j, true⟩ := by
  have hresult : ∀ r o, commandResult i r o = tileWritten (interpTexel r) := by
    obtain rfl | rfl := hi
    · exact fun _ _ => rfl
    · exact fun _ _ => rfl
  exact exec_tile_out hresult hp h j

end Sys2Proof.Machine

namespace Sys2Proof.Proofs

open Sys2Proof.Machine Sys2Proof.Claims

/-- Settles O45: the mean of two bytes is a byte, so it is exact, and a mean lies between its arguments. -/
theorem weightedMeanExact : Obligations.WeightedMeanExact := by
  intro k0 k1 x y hpos
  rw [blend_toNat rfl]
  exact ⟨rfl, weightedMean_between rfl hpos x.toNat y.toNat⟩

/-- Settles O46: the alpha byte of each texel is the entry its index selects, and every entry but the two fixed ones is
an endpoint or a weighted mean of the two. -/
theorem interpolatedAlphaSelected : Obligations.InterpolatedAlphaSelected := by
  intro a i s t p hi hp h j
  rw [exec_interp_out hi hp h, interpTexel_alpha]
  exact ⟨rfl, alphaEntry_between (Nat.mod_lt _ (by decide))⟩

end Sys2Proof.Proofs
end

section
/-! PROOFS. States that differ only in the values of unwritten words (10_state.md R21): each event sees the same marks and
the same written values, so it answers alike and leaves states that differ only there. -/

namespace Sys2Proof.Machine

/-! ### Words -/

theorem RegWord.Agrees.refl (a : RegWord) : a.Agrees a := ⟨rfl, fun _ => rfl⟩

/-- A read shows the mark, and the value only under the mark. -/
theorem RegWord.Agrees.read_eq {a b : RegWord} (h : a.Agrees b) : a.read = b.read := by
  obtain ⟨hmark, hval⟩ := h
  rw [RegWord.read, RegWord.read, ← hmark]
  cases hw : a.written with
  | true => rw [hval hw]
  | false => rfl

theorem WordsAgree.refl {n : Nat} (a : Vector RegWord n) : WordsAgree a a := fun k => .refl a[k]

theorem WordsAgree.set {n : Nat} {a b : Vector RegWord n} (h : WordsAgree a b) (k : Fin n) (w : RegWord) :
    WordsAgree (a.set k w) (b.set k w) := by
  intro l
  have hl := h l
  simp only [Fin.getElem_fin, Vector.getElem_set] at hl ⊢
  split
  · exact .refl w
  · exact hl

section
variable {i : Instr} {r r' : InReg} {o o' : OutReg}

theorem WordsAgree.operandsWritten_eq (h : WordsAgree r r') : operandsWritten i r = operandsWritten i r' :=
  operandsWritten_congr fun k _ => (h k).1

theorem unitBytes_le (i : Instr) : unitBytes i ≤ 16 := by
  cases i <;> simp [unitBytes]

/-- With the operands written, every byte of the unit is the same in both. -/
theorem WordsAgree.unit_bytes (h : WordsAgree r r') (hw : operandsWritten i r = true) :
    ∀ b < unitBytes i, Claims.byteAt r b = Claims.byteAt r' b := by
  intro b hb
  have hle := unitBytes_le i
  let k : Fin 4 := ⟨b / 4, by omega⟩
  have hbyte : b = 4 * k.val + b % 4 := (Nat.div_add_mod b 4).symm
  have hread : readsWord i k = true := decide_eq_true (by omega)
  rw [hbyte, byteAt_of_word r k (by omega), byteAt_of_word r' k (by omega), (h k).2 (operandsWritten_iff.mp hw k hread)]

/-- A command passes on no value of an unwritten word: its unit is written, and `OUT` keeps its marks. -/
theorem WordsAgree.commandResult (hr : WordsAgree r r') (hw : operandsWritten i r = true) (ho : WordsAgree o o') :
    WordsAgree (commandResult i r o) (commandResult i r' o') := by
  rw [commandResult_congr (hr.unit_bytes hw)]
  by_cases hi : i = .raw3 ∨ i = .raw4
  · obtain ⟨f, hf⟩ := commandResult_eq_texelWritten hi
    rw [hf, hf]
    exact ho.set 0 ⟨f r', true⟩
  · rw [not_or] at hi
    obtain ⟨f, hf⟩ := commandResult_eq_tileWritten hi.1 hi.2
    rw [hf, hf]
    exact .refl _

end

/-! ### The command in flight -/

theorem pendAgrees_none {x : Option Pend} : PendAgrees none x ↔ x = none := by
  cases x <;> simp [PendAgrees]

theorem pendAgrees_some {p : Pend} {x : Option Pend} :
    PendAgrees (some p) x ↔ ∃ q, x = some q ∧ p.op = q.op ∧ p.wait = q.wait ∧ WordsAgree p.snap q.snap := by
  cases x <;> simp [PendAgrees]

/-! ### States -/

namespace State.SameWritten

variable {s s' : State} (h : s.SameWritten s')
include h

theorem pend_eq_none (hp : s.pend = none) : s'.pend = none :=
  pendAgrees_none.mp (hp ▸ h.pend)

theorem pend_eq_some {p : Pend} (hp : s.pend = some p) :
    ∃ q, s'.pend = some q ∧ p.op = q.op ∧ p.wait = q.wait ∧ WordsAgree p.snap q.snap :=
  pendAgrees_some.mp (hp ▸ h.pend)

theorem busy_eq : s.busy = s'.busy := by
  cases hp : s.pend with
  | none => rw [busy_eq_false.mpr hp, busy_eq_false.mpr (h.pend_eq_none hp)]
  | some p =>
    obtain ⟨q, hq, -⟩ := h.pend_eq_some hp
    rw [busy_eq_true.mpr ⟨p, hp⟩, busy_eq_true.mpr ⟨q, hq⟩]

theorem statusWord_eq : s.statusWord = s'.statusWord := by
  rw [State.statusWord, State.statusWord, h.err, h.done, h.busy_eq]

/-- Every read returns the same value or is the same violation. -/
theorem readAccess_eq (off : Offset) (n : Nat) : readAccess off n s = readAccess off n s' := by
  rw [readAccess, readAccess]
  cases windowReg off with
  | input k => simp only [(h.inReg k).read_eq]
  | cmd => simp only [h.cmd.read_eq]
  | status => simp only [h.statusWord_eq]
  | reserved => rfl
  | output j => simp only [h.busy_eq, (h.out j).read_eq]

theorem tick : s.tick.SameWritten s'.tick where
  __ := h
  pend := by
    rw [tick_pend, tick_pend]
    cases hp : s.pend with
    | none => rw [h.pend_eq_none hp]; trivial
    | some p =>
      obtain ⟨q, hq, hop, hwait, hsnap⟩ := h.pend_eq_some hp
      rw [hq]
      exact ⟨hop, by simp only [hwait], hsnap⟩

theorem takeStmt (rest : List HostStmt) : (s.takeStmt rest).SameWritten (s'.takeStmt rest) :=
  { h.tick with todo := rfl }

theorem logRead (off : Offset) (v : Word) : (s.logRead off v).SameWritten (s'.logRead off v) :=
  { h with reads := by simp only [logRead_reads, h.reads] }

theorem again (a : HostStmt) : (s.again a).SameWritten (s'.again a) :=
  { h with todo := by simp only [again_todo, h.todo] }

theorem writeIn (k : Fin 4) (v : Word) : (s.writeIn k v).SameWritten (s'.writeIn k v) :=
  { h with inReg := h.inReg.set k ⟨v, true⟩ }

theorem issue (i : Instr) : (s.issue i).SameWritten (s'.issue i) :=
  { h with
    cmd := .refl _, done := rfl, err := rfl
    pend := ⟨rfl, by rw [h.issues], h.inReg⟩
    issues := by simp only [issue_issues, h.issues] }

theorem raiseUnsupported (w : Word) : (s.raiseUnsupported w).SameWritten (s'.raiseUnsupported w) :=
  { h with cmd := .refl _, done := rfl, err := rfl }

theorem assertReset : s.assertReset.SameWritten s'.assertReset :=
  { h with inReg := .refl _, cmd := .refl _, done := rfl, err := rfl, out := .refl _, pend := trivial }

theorem complete {o o' : OutReg} (ho : WordsAgree o o') : (s.complete o).SameWritten (s'.complete o') :=
  { h with done := rfl, out := ho, pend := trivial }

end State.SameWritten

/-! ### Events -/

/-- The second outcome is a next state or a fault as the first is: next states differ only in the values of unwritten
words, faults are the same. -/
def AnswersAlike (o o' : Host.Outcome State Fault Refusal) : Prop :=
  (∀ t, o = .next t → ∃ t', o' = .next t' ∧ t.SameWritten t') ∧ ∀ f, o = .fault f → o' = .fault f

theorem answersAlike_next {t t' : State} (h : t.SameWritten t') : AnswersAlike (.next t) (.next t') := by
  refine ⟨fun u hu => ?_, nofun⟩
  cases hu
  exact ⟨t', rfl, h⟩

theorem answersAlike_fault (f : Fault) : AnswersAlike (.fault f) (.fault f) :=
  ⟨nofun, fun _ => id⟩

namespace State.SameWritten

variable {s s' : State} (h : s.SameWritten s')
include h

theorem hostRead_alike (off : Offset) (n : Nat) : AnswersAlike (hostRead off n s) (hostRead off n s') := by
  rw [hostRead, hostRead, ← h.readAccess_eq]
  cases readAccess off n s with
  | ok v => exact answersAlike_next (h.logRead off v)
  | error f => exact answersAlike_fault f

theorem writeCommand_alike (hp : s.pend = none) (w : Word) : AnswersAlike (writeCommand w s) (writeCommand w s') := by
  cases hd : decode w with
  | command i =>
    rw [writeCommand_command hd, writeCommand_command hd, exec_of_none hp, exec_of_none (h.pend_eq_none hp)]
    exact answersAlike_next (h.issue i)
  | unsupported v =>
    rw [writeCommand_unsupported hd, writeCommand_unsupported hd]
    exact answersAlike_next (h.raiseUnsupported w)
  | reserved =>
    rw [writeCommand_reserved hd, writeCommand_reserved hd]
    exact answersAlike_fault _

theorem hostWrite_alike (off : Offset) (n : Nat) (v : Word) : AnswersAlike (hostWrite off n v s) (hostWrite off n v s') := by
  rw [hostWrite, hostWrite, ← h.busy_eq]
  cases aligned off n with
  | false => exact answersAlike_fault _
  | true =>
    cases windowReg off with
    | input k =>
      cases s.busy with
      | true => exact answersAlike_fault _
      | false => exact answersAlike_next (h.writeIn k v)
    | cmd =>
      cases hb : s.busy with
      | true => exact answersAlike_fault _
      | false => exact h.writeCommand_alike (busy_eq_false.mp hb) v
    | status => exact answersAlike_fault _
    | reserved => exact answersAlike_fault _
    | output j => exact answersAlike_fault _

theorem hostWait_alike : AnswersAlike (hostWait s) (hostWait s') := by
  rw [hostWait_eq, hostWait_eq, ← h.busy_eq, ← h.statusWord_eq]
  have hread := h.logRead offStatus s.statusWord
  cases s.busy with
  | true => exact answersAlike_next (hread.again .wait)
  | false => exact answersAlike_next hread

theorem hostEvent_alike (a : HostStmt) : AnswersAlike (hostEvent a s) (hostEvent a s') := by
  cases a with
  | rd off n => exact h.hostRead_alike off n
  | wr off n v => exact h.hostWrite_alike off n v
  | wait => exact h.hostWait_alike
  | reset => exact answersAlike_next h.assertReset

/-- A completion tests only marks and computes only from written words. -/
theorem completion_alike {p q : Pend} (hp : s.pend = some p) (hq : s'.pend = some q) (hop : p.op = q.op)
    (hsnap : WordsAgree p.snap q.snap) : AnswersAlike (exec p.op s) (exec q.op s') := by
  cases hw : operandsWritten p.op p.snap with
  | false =>
    have hw' : operandsWritten q.op q.snap = false := by rw [← hop, ← hsnap.operandsWritten_eq, hw]
    rw [exec_of_unwritten hp hw, exec_of_unwritten hq hw']
    exact answersAlike_fault _
  | true =>
    have hw' : operandsWritten q.op q.snap = true := by rw [← hop, ← hsnap.operandsWritten_eq, hw]
    rw [exec_of_pending hp hw, exec_of_pending hq hw', ← hop]
    exact answersAlike_next (h.complete (hsnap.commandResult hw h.out))

end State.SameWritten

/-- With a command in flight and no turn of its `LAT` left, the step is its completion (R24). -/
theorem step_of_completion {s : State} {p : Pend} (hp : s.pend = some p) (hw : p.wait = 0) : step s = exec p.op s := by
  obtain ⟨op, snap, wait⟩ := p
  obtain rfl : wait = 0 := hw
  have hturn : s.turn = .completion op := turn_completion.mpr ⟨snap, hp⟩
  simp only [step, nextEvent, hturn]

/-- The same agent moves in both states, and its event answers alike. -/
theorem State.SameWritten.step_alike {s s' : State} (h : s.SameWritten s') : AnswersAlike (step s) (step s') := by
  by_cases hdue : ∃ p, s.pend = some p ∧ p.wait = 0
  · obtain ⟨p, hp, hw⟩ := hdue
    obtain ⟨q, hq, hop, hwait, hsnap⟩ := h.pend_eq_some hp
    rw [step_of_completion hp hw, step_of_completion hq (hwait ▸ hw)]
    exact h.completion_alike hp hq hop hsnap
  · have hturn : ∀ p, s.pend = some p → p.wait ≠ 0 := fun p hp hw => hdue ⟨p, hp, hw⟩
    have hturn' : ∀ q, s'.pend = some q → q.wait ≠ 0 := by
      intro q hq
      cases hp : s.pend with
      | none => simp [h.pend_eq_none hp] at hq
      | some p =>
        obtain ⟨q', hq', -, hwait, -⟩ := h.pend_eq_some hp
        obtain rfl : q = q' := Option.some.inj (hq.symm.trans hq')
        exact hwait ▸ hturn p hp
    cases htodo : s.todo with
    | nil =>
      rw [step_of_idle hturn htodo, step_of_idle hturn' (h.todo ▸ htodo)]
      exact answersAlike_next h.tick
    | cons a rest =>
      rw [step_of_host hturn htodo, step_of_host hturn' (h.todo ▸ htodo)]
      exact (h.takeStmt rest).hostEvent_alike a

end Sys2Proof.Machine

namespace Sys2Proof.Proofs

open Sys2Proof.Machine

/-- Settles O60: a step answers alike from both states, event by event. -/
theorem unwrittenValuesUnobservable : Obligations.UnwrittenValuesUnobservable :=
  fun _ _ h => h.step_alike

end Sys2Proof.Proofs
end

section
/-! PROOFS. Which event a step is (10_state.md R24, 20_memory.md R43), and runs through the `LAT` of a command
(30_encoding.md R70, 70_reset_and_hazards.md R123, R130). -/

namespace Sys2Proof.Machine

open Sys2Proof.Claims

/-! ### Host turns -/

section
variable {s : State} {p : Pend} {n : Nat}

/-- With nothing in flight no completion is due. -/
theorem wait_ne_zero_of_none (h : s.pend = none) : ∀ q, s.pend = some q → q.wait ≠ 0 := by
  simp [h]

/-- With turns of its `LAT` left the command in flight is not due. -/
theorem wait_ne_zero_of_succ (hp : s.pend = some p) (hw : p.wait = n + 1) : ∀ q, s.pend = some q → q.wait ≠ 0 := by
  intro q hq
  obtain rfl : p = q := Option.some.inj (hp.symm.trans hq)
  rw [hw]
  exact Nat.succ_ne_zero n

/-- A host turn lets one turn of the pending command's `LAT` pass. -/
theorem tick_of_succ (hp : s.pend = some p) (hw : p.wait = n + 1) :
    s.tick = { s with pend := some { p with wait := n } } := by
  rw [State.tick, hp, Option.map_some, hw, Nat.add_sub_cancel]

theorem takeStmt_of_succ (hp : s.pend = some p) (hw : p.wait = n + 1) (rest : List HostStmt) :
    s.takeStmt rest = { s with todo := rest, pend := some { p with wait := n } } := by
  rw [State.takeStmt, tick_of_succ hp hw]

/-- While the command in flight is not due, `WAIT` reads `STATUS` once and stays the host's next statement. -/
theorem step_wait_busy {rest : List HostStmt} (hp : s.pend = some p) (hw : p.wait = n + 1) (htodo : s.todo = .wait :: rest) :
    ∃ v, step s = .next { s with pend := some { p with wait := n }, reads := ⟨offStatus, v⟩ :: s.reads } := by
  have hbusy : (s.takeStmt rest).busy = true := (takeStmt_busy s rest).trans (busy_eq_true.mpr ⟨p, hp⟩)
  refine ⟨(s.takeStmt rest).statusWord, ?_⟩
  rw [step_of_host (wait_ne_zero_of_succ hp hw) htodo, hostEvent, hostWait_eq, if_pos hbusy, takeStmt_of_succ hp hw]
  simp only [State.again, State.logRead, htodo]

/-- With nothing in flight `WAIT` reads `STATUS` once and the host moves on. -/
theorem step_wait_idle {rest : List HostStmt} (hp : s.pend = none) (htodo : s.todo = .wait :: rest) :
    step s = .next { s with todo := rest, reads := ⟨offStatus, s.statusWord⟩ :: s.reads } := by
  have hbusy : ¬(s.takeStmt rest).busy = true := by simp [busy_eq_false.mpr hp]
  rw [step_of_host (wait_ne_zero_of_none hp) htodo, hostEvent, hostWait_eq, if_neg hbusy, takeStmt_of_none hp]
  rfl

end

/-! ### Runs -/

/-- A run whose first part goes on. -/
theorem run_add {m : Nat} {s t : State} (h : core.run m s = .next t) (k : Nat) : core.run (m + k) s = core.run k t := by
  induction m generalizing s with
  | zero =>
    cases h
    rw [Nat.zero_add]
  | succ m ih =>
    rw [Nat.add_right_comm]
    cases hs : step s with
    | next u => exact (run_succ hs (m + k)).trans (ih ((run_succ hs m).symm.trans h))
    | fault f =>
      have hstep : core.step s = .fault f := hs
      simp [Host.Core.run, hstep] at h
    | refused r =>
      have hstep : core.step s = .refused r := hs
      simp [Host.Core.run, hstep] at h

/-- An idle host lets the turns left pass, and then the command completes. -/
theorem run_idle_pending {s : State} (htodo : s.todo = []) (p : Pend) (m : Nat) :
    core.run (m + 1) { s with pend := some { p with wait := m } } =
      exec p.op { s with pend := some { p with wait := 0 } } := by
  induction m with
  | zero => exact (run_one _).trans (step_of_completion (p := { p with wait := 0 }) rfl rfl)
  | succ m ih =>
    let u : State := { s with pend := some { p with wait := m + 1 } }
    have hstep : step u = .next { s with pend := some { p with wait := m } } :=
      step_of_idle (s := u) (wait_ne_zero_of_succ (p := { p with wait := m + 1 }) rfl rfl) htodo
    exact (run_succ hstep (m + 1)).trans ih

/-- Polling passes the turns left: each poll reads `STATUS` once and keeps `WAIT` the host's next statement. -/
theorem run_wait_polls {rest : List HostStmt} (n : Nat) {s : State} {p : Pend} (hp : s.pend = some p) (hw : p.wait = n)
    (htodo : s.todo = .wait :: rest) :
    ∃ rs, core.run n s = .next { s with pend := some { p with wait := 0 }, reads := rs } ∧
      rs.length = s.reads.length + n := by
  induction n generalizing s p with
  | zero => exact ⟨s.reads, by rw [run_zero, ← hw, ← hp], rfl⟩
  | succ n ih =>
    obtain ⟨v, hstep⟩ := step_wait_busy hp hw htodo
    obtain ⟨rs, hrun, hlen⟩ := ih (s := { s with pend := some { p with wait := n }, reads := ⟨offStatus, v⟩ :: s.reads })
      (p := { p with wait := n }) rfl rfl htodo
    refine ⟨rs, (run_succ hstep n).trans hrun, ?_⟩
    rw [hlen, List.length_cons]
    omega

/-- A `WAIT` polls through the turns left, sees the completion and ends: `n + 2` steps, whatever `n`. -/
theorem run_wait_completes {s : State} {p : Pend} {rest : List HostStmt} (hp : s.pend = some p)
    (htodo : s.todo = .wait :: rest) (hw : operandsWritten p.op p.snap = true) :
    ∃ rs v, core.run (p.wait + 2) s =
        .next { s.complete (commandResult p.op p.snap s.out) with todo := rest, reads := ⟨offStatus, v⟩ :: rs } ∧
      v = (s.complete (commandResult p.op p.snap s.out)).statusWord ∧ rs.length = s.reads.length + p.wait := by
  obtain ⟨rs, hpolls, hlen⟩ := run_wait_polls p.wait hp rfl htodo
  let due : State := { s with pend := some { p with wait := 0 }, reads := rs }
  have hcomplete : step due = .next (due.complete (commandResult p.op p.snap s.out)) :=
    (step_of_completion (s := due) (p := { p with wait := 0 }) rfl rfl).trans (exec_of_pending rfl hw)
  have hlast := step_wait_idle (s := due.complete (commandResult p.op p.snap s.out)) rfl htodo
  refine ⟨rs, _, ?_, rfl, hlen⟩
  rw [run_add hpolls 2]
  exact (run_succ hcomplete 1).trans ((run_one _).trans hlast)

end Sys2Proof.Machine

namespace Sys2Proof.Proofs

open Sys2Proof.Machine Sys2Proof.Claims

/-- Settles O57: `run_wait_completes`, whose last `STATUS` read is of the completed state. -/
theorem waitEnds : Obligations.WaitEnds := by
  intro s p rest hp htodo hw
  obtain ⟨rs, v, hrun, hv, hlen⟩ := run_wait_completes hp htodo hw
  have hstatus : v.toNat % 4 = 2 := by
    rw [hv, statusWord_toNat, complete_err, complete_done, complete_busy]
    cases s.err <;> rfl
  refine ⟨_, s.complete (commandResult p.op p.snap s.out), v, hrun, rfl, rfl, rfl, exec_of_pending hp hw, rfl, rfl, rfl,
    rfl, hstatus, ?_⟩
  rw [List.length_cons, hlen]

/-- Settles O58: with either number of turns left the run ends in the same completion. -/
theorem latencyDoesNotMatter : Obligations.LatencyDoesNotMatter :=
  fun _ p m n htodo => (run_idle_pending htodo p m).trans (run_idle_pending htodo p n).symm

/-- Settles O23: with nothing in flight no turn passes and the `CMD` write is the decoded command run. -/
theorem stepRunsCommandWord : Obligations.StepRunsCommandWord := by
  intro w i rest s hp htodo hd
  have hidle : State.busy { s with todo := rest } = false := busy_eq_false.mpr hp
  rw [step_of_host (wait_ne_zero_of_none hp) htodo, takeStmt_of_none hp, hostEvent_write_cmd_not_busy w hidle,
    writeCommand_command hd]

/-- Settles O59: the first step issues the command, and the rest is its `WAIT`, for the `LAT` the issue took. -/
theorem issueThenWaitGivesResult : Obligations.IssueThenWaitGivesResult := by
  intro s w i rest hp hd htodo hw
  let issued : State := State.issue { s with todo := .wait :: rest } i
  have hissue : step s = .next issued := (stepRunsCommandWord w i _ s hp htodo hd).trans (exec_of_none hp)
  obtain ⟨rs, v, hrun, -, -⟩ := run_wait_completes (s := issued) (issue_pend _ i) rfl hw
  refine ⟨_, _, s.issue i, (s.issue i).complete (commandResult i s.inReg s.out), (run_succ hissue _).trans hrun,
    exec_of_none hp, exec_of_pending (issue_pend s i) hw, rfl, rfl, rfl, rfl, rfl, ?_, rfl⟩
  rw [eq_encode_of_decode hd]
  rfl

/-- Settles O24: a due command is run whatever the host's statements. -/
theorem stepCompletesPending : Obligations.StepCompletesPending :=
  fun _ _ hp hw => step_of_completion hp hw

/-- Settles O25: with no completion due the event is the host's statement or an idle turn, after one turn of `LAT`. -/
theorem stepTakesHostTurn : Obligations.StepTakesHostTurn := by
  refine fun s => ⟨fun a rest hp htodo => ?_, fun hp htodo => ?_, fun p n a rest hp hw htodo => ?_,
    fun p n hp hw htodo => ?_⟩
  · rw [step_of_host (wait_ne_zero_of_none hp) htodo, takeStmt_of_none hp]
  · rw [step_of_idle (wait_ne_zero_of_none hp) htodo, tick_of_none hp]
  · rw [step_of_host (wait_ne_zero_of_succ hp hw) htodo, takeStmt_of_succ hp hw]
  · rw [step_of_idle (wait_ne_zero_of_succ hp hw) htodo, tick_of_succ hp hw]

/-- Settles O26: bit 0 of the word read is `BUSY`, on which the host branches. -/
theorem waitPollsStatus : Obligations.WaitPollsStatus := by
  intro s
  have hbit := statusWord_mod_two s
  rw [hostEvent, hostWait_eq]
  cases hb : s.busy with
  | true =>
    have hodd : s.statusWord.toNat % 2 = 1 := hbit.mpr hb
    exact ⟨_, s.statusWord, rfl, rfl, rfl, fun _ => rfl, by omega, rfl, rfl, rfl, rfl, rfl, rfl, rfl⟩
  | false =>
    have heven : ¬s.statusWord.toNat % 2 = 1 := fun h => by simp [hbit.mp h] at hb
    exact ⟨_, s.statusWord, rfl, rfl, rfl, fun h => absurd h heven, fun _ => rfl, rfl, rfl, rfl, rfl, rfl, rfl, rfl⟩

end Sys2Proof.Proofs
end

section
/-! PROOFS. Host accesses as later accesses see them (20_memory.md R28, R32 to R41, 70_reset_and_hazards.md R121, R125), and
the statements that fault whatever the state (60_exceptions.md R111). -/

namespace Sys2Proof.Machine

open Sys2Proof.Claims

/-! ### The window (R28) -/

theorem windowOffset_inside (off : Offset) : windowOffset (Config.base + off.toNat) = some off := by
  have hlt : off.toNat < 128 := off.isLt
  rw [windowOffset, if_pos (by omega), Nat.add_sub_cancel_left, BitVec.ofNat_toNat, BitVec.setWidth_eq]

theorem windowOffset_outside {addr : Nat} (h : addr < Config.base ∨ Config.base + 128 ≤ addr) :
    windowOffset addr = none := by
  rw [windowOffset, if_neg (by omega)]

/-! ### Reads and writes as the next access sees them -/

/-- No read sees the values the host has read before. -/
@[simp] theorem readAccess_logRead (off off' : Offset) (n : Nat) (v : Word) (s : State) :
    readAccess off' n (s.logRead off v) = readAccess off' n s := rfl

theorem hostEvent_read_of_ok {off : Offset} {n : Nat} {v : Word} {s : State} (h : readAccess off n s = .ok v) :
    hostEvent (.rd off n) s = .next (s.logRead off v) := by
  rw [hostEvent, hostRead, h]

/-- Writing a word of `IN` twice is writing it once. -/
@[simp] theorem writeIn_writeIn (s : State) (k : Fin 4) (v : Word) : (s.writeIn k v).writeIn k v = s.writeIn k v := by
  simp [State.writeIn]

/-! ### Ill-formed statements -/

/-- A state in which every register word is written and nothing is in flight, where no read faults for the state. -/
def State.allWritten : State :=
  { State.reset with
    inReg := Vector.replicate 4 ⟨0, true⟩, cmd := ⟨0, true⟩, out := Vector.replicate 16 ⟨0, true⟩ }

theorem wf_rd {off : Offset} {n : Nat} :
    (HostStmt.rd off n).wf = true ↔ aligned off n = true ∧ windowReg off ≠ .reserved := by
  simp [HostStmt.wf]

/-- A well-formed read goes on where all words are written. -/
theorem hostEvent_read_allWritten {off : Offset} {n : Nat} (h : (HostStmt.rd off n).wf = true) :
    ∃ t, hostEvent (.rd off n) .allWritten = .next t := by
  obtain ⟨ha, hr⟩ := wf_rd.mp h
  obtain ⟨rfl, ⟨k, rfl⟩ | rfl | rfl | hres | ⟨j, rfl⟩⟩ := aligned_cases ha
  · have hw : State.allWritten.inReg[k].written = true := by simp [State.allWritten]
    exact ⟨_, by rw [hostEvent_read_input, if_pos hw]⟩
  · exact ⟨_, hostEvent_read_cmd _⟩
  · exact ⟨_, hostEvent_read_status _⟩
  · exact absurd hres hr
  · have hw : State.allWritten.out[j].written = true := by simp [State.allWritten]
    exact ⟨_, by rw [hostEvent_read_output, if_neg (by decide), if_pos hw]⟩

/-- An ill-formed read faults in every state. -/
theorem hostEvent_read_ill_formed {off : Offset} {n : Nat} (h : (HostStmt.rd off n).wf = false) (s : State) :
    ∃ f, hostEvent (.rd off n) s = .fault f := by
  cases ha : aligned off n with
  | false => exact ⟨_, hostEvent_read_not_aligned ha s⟩
  | true =>
    have hr : windowReg off = .reserved := by
      by_contra hne
      simp [wf_rd.mpr ⟨ha, hne⟩] at h
    exact ⟨_, hostEvent_read_reserved ha hr s⟩

/-- A write is well-formed at `IN`, and at `CMD` for an unreserved word. -/
theorem wf_wr {off : Offset} {n : Nat} {v : Word} :
    (HostStmt.wr off n v).wf = true ↔
      aligned off n = true ∧ ((∃ k, windowReg off = .input k) ∨ (windowReg off = .cmd ∧ decode v ≠ .reserved)) := by
  cases hr : windowReg off <;> simp [HostStmt.wf, hr]

/-- A well-formed write goes on where nothing is in flight. -/
theorem hostEvent_write_well_formed {off : Offset} {n : Nat} {v : Word} (h : (HostStmt.wr off n v).wf = true) {s : State}
    (hb : s.busy = false) : ∃ t, hostEvent (.wr off n v) s = .next t := by
  obtain ⟨ha, ⟨k, hk⟩ | ⟨hr, hd⟩⟩ := wf_wr.mp h
  · exact ⟨s.writeIn k v, by simp [hostEvent, hostWrite, ha, hk, hb]⟩
  · obtain ⟨rfl, rfl⟩ := off_of_cmd ha hr
    rw [hostEvent_write_cmd_not_busy v hb]
    obtain ⟨-, hnext⟩ := writeCommand_reports hb v
    exact hnext (if_neg (mt decode_eq_reserved.mpr hd))

/-- A write that goes on in some state is well-formed. -/
theorem wf_of_hostEvent_write {off : Offset} {n : Nat} {v : Word} {s t : State}
    (h : hostEvent (.wr off n v) s = .next t) : (HostStmt.wr off n v).wf = true := by
  obtain ⟨-, ha, ⟨k, hk, -⟩ | ⟨hr, ⟨i, hd, -⟩ | ⟨u, hd, -⟩⟩⟩ := hostWrite_cases h
  · exact wf_wr.mpr ⟨ha, .inl ⟨k, hk⟩⟩
  · exact wf_wr.mpr ⟨ha, .inr ⟨hr, by simp [hd]⟩⟩
  · exact wf_wr.mpr ⟨ha, .inr ⟨hr, by simp [hd]⟩⟩

/-- An ill-formed write faults in every state, with its first violation. -/
theorem hostEvent_write_ill_formed {off : Offset} {n : Nat} {v : Word} (h : (HostStmt.wr off n v).wf = false)
    (s : State) : ∃ f, hostEvent (.wr off n v) s = .fault f := by
  obtain ⟨hfault, hnext⟩ := hostEvent_write_reports off n v s
  cases hv : firstViolation (writeViolations off.toNat n v s) with
  | some f => exact ⟨f, hfault f hv⟩
  | none =>
    obtain ⟨t, ht⟩ := hnext hv
    simp [wf_of_hostEvent_write ht] at h

end Sys2Proof.Machine

namespace Sys2Proof.Proofs

open Sys2Proof.Machine Sys2Proof.Claims

/-- Settles O12: reads and writes, each in both directions; `WAIT` and reset are well-formed and go on everywhere. -/
theorem illFormedStatementsFault : Obligations.IllFormedStatementsFault := by
  intro a
  cases a with
  | rd off n => exact ⟨hostEvent_read_ill_formed, fun h => ⟨_, hostEvent_read_allWritten h⟩⟩
  | wr off n v => exact ⟨hostEvent_write_ill_formed, fun h => ⟨State.reset, hostEvent_write_well_formed h rfl⟩⟩
  | wait => exact ⟨nofun, fun _ => ⟨State.reset, _, by rw [hostEvent, hostWait_eq]⟩⟩
  | reset => exact ⟨nofun, fun _ => ⟨State.reset, _, hostEvent_reset _⟩⟩

/-- Settles O18: a read changes only the host's own list, which no read sees. -/
theorem readsHaveNoSideEffect : Obligations.ReadsHaveNoSideEffect := by
  intro off off' n n' s t h
  obtain ⟨v, hv, rfl⟩ := hostRead_cases h
  exact ⟨readAccess_logRead .., (s.logRead off v).logRead off v, v, hostEvent_read_of_ok hv, rfl, rfl⟩

/-- Settles O19: the write sets and marks the whole word, so the next read returns it and the same write again changes
nothing. -/
theorem inputWriteSeenAtOnce : Obligations.InputWriteSeenAtOnce := by
  intro k v s hb
  have hwrite (u : State) (hu : u.busy = false) :
      hostEvent (.wr (BitVec.ofNat 7 (4 * k.val)) 4 v) u = .next (u.writeIn k v) := by
    rw [hostEvent_write_input, if_neg (ne_true_of_eq_false hu)]
  refine ⟨s.writeIn k v, (s.writeIn k v).logRead _ v, hwrite s hb, ?_, logRead_onlyRead .., ?_⟩
  · rw [hostEvent_read_input, writeIn_inReg_self, if_pos rfl]
  · rw [hwrite (s.writeIn k v) hb, writeIn_writeIn]

/-- Settles O56: a command's word in `CMD` is in flight or done, so `BUSY = 0` means done, and the words it wrote are
marked. -/
theorem completionVisible : Obligations.CompletionVisible := by
  intro s t v i hs hw hd h hv hbit
  rw [hostEvent_read_status] at h
  cases h
  obtain rfl : s.statusWord = v := by simpa using hv
  have hb : s.busy = false := by
    rw [← Bool.not_eq_true, ← statusWord_mod_two]
    omega
  obtain ⟨herr, hbusy | hdone⟩ := hs.cmd_command hw i hd
  · simp [hb] at hbusy
  obtain ⟨hzero, hblock⟩ := hs.done_out hdone
  have hread (j : Fin 16) (hj : s.out[j].written = true) :
      ∃ u, hostEvent (.rd (BitVec.ofNat 7 (0x40 + 4 * j.val)) 4) (s.logRead 0x14 s.statusWord) = .next u := by
    obtain ⟨-, -, hwritten⟩ := readOutput j (s.logRead 0x14 s.statusWord)
    obtain ⟨u, hu, -⟩ := hwritten hb hj
    exact ⟨u, hu⟩
  exact ⟨by simp [statusWord_toNat, herr, hdone, hb], hdone, hread 0 hzero, fun h3 h4 j => hread j (hblock i hd h3 h4 j)⟩

/-- Settles O7: the window is `BASE` and the 127 addresses above it. -/
theorem windowAtBase : Obligations.WindowAtBase := by
  refine ⟨Nat.mul_mod_right 128 _, windowOffset_inside, fun addr h => ?_⟩
  simp [memRead, memWrite, windowOffset_outside h]

/-- Settles O10: neither write tests the state. -/
theorem readOnlyWritesFault : Obligations.ReadOnlyWritesFault :=
  fun v s => ⟨hostEvent_write_status v s, fun j => hostEvent_write_output j v s⟩

/-- Settles O51: the reset leaves the host's lists and nothing in flight, where every well-formed write goes on. -/
theorem readyAfterReset : Obligations.ReadyAfterReset := by
  intro s t h
  obtain rfl : s.assertReset = t := by simpa using h
  have hb : s.assertReset.busy = false := assertReset_busy s
  refine ⟨rfl, rfl, ⟨_, hostEvent_read_status _, ?_⟩, fun k v => ?_, fun w hw => ?_⟩
  · rw [assertReset_statusWord]
    exact logRead_onlyRead ..
  · exact hostEvent_write_well_formed (wf_wr.mpr ⟨aligned_input k, .inl ⟨k, windowReg_input k⟩⟩) hb
  · have hd : decode w ≠ .reserved := fun e => Nat.not_le_of_lt hw (decode_eq_reserved.mp e)
    exact hostEvent_write_well_formed (wf_wr.mpr ⟨rfl, .inr ⟨rfl, hd⟩⟩) hb

end Sys2Proof.Proofs
end
